-- ==== Sys2Proof/Word.lean ====
section
/-!
DEFINITION. The plain number types of the part: bytes, table times, the numbers of its ports,
channels, switches, lamps and reflex entries, and tables held once for each port.
Spec: 00_scope.md (Names, Conventions), 01_table_time.md R1.
-/

namespace Sys2Proof

/-- One byte of a frame. -/
abbrev Byte := BitVec 8

/-- A table time: an unsigned 32-bit count of ticks (R1). -/
abbrev TableTime := BitVec 32

/-- The three link ports: rules, show and service. -/
inductive Port where
  | p0
  | p1
  | p2
  deriving DecidableEq, Repr

/-- A coil channel, C0 to C23. -/
abbrev Chan := Fin 24

/-- A switch, S0 to S31. -/
abbrev SwitchNo := Fin 32

/-- A lamp, L0 to L39. -/
abbrev LampNo := Fin 40

/-- A reflex entry, X0 to X15. -/
abbrev ReflexNo := Fin 16

/-- A blink rate, 0 to 3 (R143). -/
abbrev Rate := Fin 4

/-- The three ports, P0 first. -/
def Port.all : List Port := [.p0, .p1, .p2]

/-- The number of a port, as an owner's first byte carries it (11, section 11.4). -/
def Port.number : Port → Nat
  | .p0 => 0
  | .p1 => 1
  | .p2 => 2

/-- One value for each port. -/
structure PerPort (α : Type) where
  p0 : α
  p1 : α
  p2 : α
  deriving DecidableEq, Repr

/-- The value of one port. -/
def PerPort.get {α : Type} (t : PerPort α) : Port → α
  | .p0 => t.p0
  | .p1 => t.p1
  | .p2 => t.p2

/-- The table with one port's value replaced. -/
def PerPort.set {α : Type} (t : PerPort α) (p : Port) (a : α) : PerPort α :=
  match p with
  | .p0 => { t with p0 := a }
  | .p1 => { t with p1 := a }
  | .p2 => { t with p2 := a }

/-- One value in each port. -/
def PerPort.const {α : Type} (a : α) : PerPort α := ⟨a, a, a⟩

/-- Division rounded up: the spec's "ceil" of a quotient (00_scope.md, Arithmetic). -/
def ceilDiv (a b : Nat) : Nat := (a + b - 1) / b

/-- A fixed-length table with a function applied to every element. -/
def mapTable {α β : Type} {n : Nat} (v : Vector α n) (f : α → β) : Vector β n :=
  ⟨⟨v.toList.map f⟩, by simp⟩

/-- The fixed-length table of a function's values. -/
def tabulate {α : Type} (n : Nat) (f : Fin n → α) : Vector α n :=
  ⟨⟨List.ofFn f⟩, by simp⟩

/-- All numbers below n, in rising order: the channels, switches, lamps or entries of a block. -/
def allFin (n : Nat) : List (Fin n) := List.ofFn id

end Sys2Proof
end

