-- ==== Sys2Proof/Syntax.lean ====
section
/-!
DEFINITION. The commands and events of the part: one constructor of `Instr` for each row of
spec/opcode_table.json. A command of a port carries its port and the fields of its body at the widths
of 11_link_ports_and_frame_layouts.md, sections 11.4 and 11.5.
-/

namespace Sys2Proof

/-- An order record as carried in the body of POST ORDER (11, section 11.5; R73). -/
structure OrderRecord where
  tag : Byte
  channel : Byte
  /-- 00h PULSE, 01h TRAIN, 02h HOLD; others unknown. -/
  kind : Byte
  priority : BitVec 3
  follow : Bool
  quiet : Bool
  fraction : BitVec 5
  count : BitVec 6
  gap : BitVec 16
  /-- Absent in the 8-byte form. -/
  due : Option TableTime
  deriving DecidableEq, Repr

/-- A profile as carried in the body of WRITE PROFILE (11, section 11.4; R17). -/
structure ProfileRecord where
  enabled : Bool
  overtimeLatches : Bool
  postP0 : Bool
  postP1 : Bool
  postP2 : Bool
  kickTime : BitVec 16
  kickDraw : Byte
  holdDuty : Byte
  foldDuty : Byte
  heatFactor : Byte
  cooling : Byte
  ceiling : BitVec 24
  recycle : BitVec 16
  maxOn : BitVec 24
  senseDelay : Byte
  deriving DecidableEq, Repr

/-- The fields of WRITE REFLEX after the entry number (11, section 11.4; R118). -/
structure ReflexRecord where
  switch : Byte
  /-- The trigger edge: true for OPEN, false for CLOSE. -/
  openEdge : Bool
  /-- 00h FIRE, 01h FLIP, 02h TILT; others BAD ORDER. -/
  action : Byte
  channel : Byte
  inAttract : Bool
  inGame : Bool
  enabled : Bool
  deriving DecidableEq, Repr

/-- One cell write of WRITE LAMPS (11, section 11.4; R144). -/
structure CellWrite where
  lamp : Byte
  /-- 00h TRANSPARENT, 01h LIT; others BAD ORDER. -/
  content : Byte
  /-- 00h STEADY, 01h BLINK_A, 02h BLINK_B; others BAD ORDER; not read for TRANSPARENT. -/
  pattern : Byte
  level : Byte
  rate : Byte
  deriving DecidableEq, Repr

/-- The commands and events of the part, in the order of spec/opcode_table.json. -/
inductive Instr where
  | powerOn
  | supplyFall
  | resetnFall
  | resetnRise
  | tableClockAdvance
  | receiveByte (p : Port) (b : Byte)
  | gapExpiry (p : Port)
  | replyEnd (p : Port)
  | switchRawChange (n : SwitchNo) (high : Bool)
  | debounceExpiry (n : SwitchNo)
  | senseChange (c : Chan) (high : Bool)
  | railokChange (high : Bool)
  | comparatorMatch (p : Port)
  | comparatorLapse (p : Port)
  | dueTimeExpiry (p : Port) (tag : Byte)
  | kickEndExpiry (c : Chan)
  | senseDelayExpiry (c : Chan)
  | maxOnExpiry (c : Chan)
  | foldExpiry (c : Chan)
  | recycleExpiry (c : Chan)
  | coolingExpiry (c : Chan)
  | shortCheckExpiry (c : Chan)
  | settleExpiry
  | railLossExpiry
  | lampPhaseEvent (r : Rate)
  | coolDownExpiry (l : LampNo)
  | inrushExpiry (l : LampNo)
  | portReset (p : Port)
  | tableReset (p : Port)
  | readClock (p : Port)
  | setAlarmTime (p : Port) (time : TableTime)
  | disarm (p : Port)
  | postOrder (p : Port) (order : OrderRecord)
  | cancelOrder (p : Port) (tag : Byte)
  | readCompletions (p : Port)
  | readRing (p : Port)
  | writeProfile (p : Port) (channel : Byte) (profile : ProfileRecord)
  | readProfile (p : Port) (channel : Byte)
  | readChannel (p : Port) (channel : Byte)
  | clearFault (p : Port) (channel : Byte)
  | writeRail (p : Port) (budget : Byte) (reserve : Byte)
  | readRail (p : Port)
  | setMode (p : Port) (mode : Byte)
  | clearAlarm (p : Port)
  | readAlarm (p : Port)
  | writeSwitchConfig (p : Port) (switch : Byte) (closedHigh : Bool) (closeTime : Byte) (openTime : Byte)
  | readSwitches (p : Port)
  | subscribe (p : Port) (set : BitVec 32)
  | readSwitchEvents (p : Port)
  | writeReflex (p : Port) (entry : Byte) (fields : ReflexRecord)
  | readReflex (p : Port) (entry : Byte)
  | writeLamps (p : Port) (writes : List CellWrite)
  | writeLampConfig (p : Port) (flags : BitVec 40) (inrushTime : BitVec 16) (slotLimit : Byte)
  | readLamps (p : Port) (first : Byte)
  | writeAttention (p : Port) (priorities : Vector Byte 7) (threshold : Byte) (lowMark : Byte)
  | takeEvent (p : Port)
  deriving DecidableEq, Repr

end Sys2Proof
end

