-- ==== Sys2Proof/Decode.lean ====
section
/-!
DEFINITION. The command that a word spells by the bits of spec/opcode_table.json. No row of that
table gives bits ("fields" is empty in every row and none has "fixed"), so no word spells a command.
The frames of bytes that carry the commands of the ports are read in Machine/Frames.lean.
-/

namespace Sys2Proof

/-- No row of the table gives bits, so no word spells a command (assumption 15). -/
def decodeTableWord (_nbits _w : Nat) : Option Instr := none

end Sys2Proof
end

