-- ==== Sys2Proof/Config.lean ====
section
/-!
DEFINITION. The constants the spec fixes for the part, and its free values.
The free values have no body, so that no proof can see what they are.
-/

namespace Sys2Proof.Config

/-- The largest heat (03, section 3.1). -/
def heatMax : Nat := 16777215

/-- Order records a request ring holds (R77). -/
def ringSize : Nat := 32

/-- Pending entries of one port (R79). -/
def quota : Nat := 16

/-- Records a completion queue holds (R95). -/
def completionSize : Nat := 32

/-- Records a switch event queue holds (R115). -/
def eventSize : Nat := 32

/-- The short-check interval in ticks (R31). -/
def shortTicks : Nat := 50

/-- The rail settle interval in ticks (R134). -/
def settleTicks : Nat := 2000

/-- The rail-loss interval in ticks (R136). -/
def railLossTicks : Nat := 20

/-- The gap interval in ticks (R164). -/
def gapTicks : Nat := 20

/-- The cool-down interval of a lamp in ticks (R149). -/
def coolDownTicks : Nat := 5000

/-- The half-period of blink rate 0 in ticks (R146). -/
def blinkHalfPeriod : Nat := 1250

/-- FREE VALUE. Which of several events due at one value of the table clock is taken first, when the
queue of commands does not say (R1: "they happen in either order"). Applied to `State.free`. -/
opaque pickDue : Nat → Nat

/-- FREE VALUE. Whether a check whose expiry falls on the value at which ALARM was entered is taken
before it learns that the rail has left ON, when the queue of commands does not say (R139).
Applied to `State.free`. -/
opaque takesLateCheck : Nat → Bool

end Sys2Proof.Config
end

