-- ==== Sys2Proof/Machine/State.lean ====
section
/-!
DEFINITION. The state of the part, block by block as 00_scope.md draws it, as plain data, and the
state right after power-on. Moments are counts of clock advances since power-on (`State.now`): the
table time of a moment is its low 32 bits, and elapsed times are exact across the wrap (R5, R6).
An interval is kept as the moment of its expiry.
-/

namespace Sys2Proof.Machine

/-! ## Coil channels and heat accounting -/

/-- The owner of a pulse, a queue place or a list place: an order or a reflex entry (02, 2.1). -/
inductive Owner where
  | order (p : Port) (tag : Byte)
  | reflex (x : ReflexNo)
  deriving DecidableEq, Repr

/-- The states of a channel (R14). -/
inductive Phase where
  | offline
  | idle
  | kick
  | hold
  | fold
  | recycle
  | faulted
  deriving DecidableEq, Repr

/-- The kind of a pulse (02, 2.1). -/
inductive PulseKind where
  | plain
  | hold
  deriving DecidableEq, Repr

/-- The causes of a pulse end (R15). -/
inductive Cause where
  | complete
  | release
  | overtime
  | openCoil
  | abort
  deriving DecidableEq, Repr

/-- The kinds of a channel fault (R29). -/
inductive FaultKind where
  | openCoil
  | overtime
  deriving DecidableEq, Repr

/-- The open check of a pulse (R28). -/
inductive OpenCheck where
  | pending
  | made
  | none
  deriving DecidableEq, Repr

/-- A profile record, with the clamped values (R17). -/
structure Profile where
  enabled : Bool
  overtimeLatches : Bool
  posting : PerPort Bool
  kickTime : Nat
  kickDraw : Nat
  holdDuty : Nat
  foldDuty : Nat
  heatFactor : Nat
  cooling : Nat
  ceiling : Nat
  recycle : Nat
  maxOn : Nat
  senseDelay : Nat
  deriving DecidableEq, Repr

/-- A pulse record (02, 2.1; R22). -/
structure Pulse where
  owner : Owner
  /-- Whether the owner is still told of this pulse (R27, R87). -/
  owned : Bool
  kind : PulseKind
  /-- The kick length K. -/
  kickLength : Nat
  /-- The moment of the grant. -/
  start : Nat
  recycleLength : Nat
  released : Bool
  /-- The latched fault and the moment at which it was latched (R29). -/
  latched : Option (FaultKind × Nat)
  openCheck : OpenCheck
  /-- The fold interval (R50). -/
  foldAt : Option Nat
  /-- The recycle interval (R27). -/
  recycleAt : Option Nat
  deriving DecidableEq, Repr

/-- A fault record (R29). -/
structure FaultRecord where
  kind : FaultKind
  time : TableTime
  source : Owner
  deriving DecidableEq, Repr

/-- A member of a channel queue (R32). -/
structure QueueMember where
  owner : Owner
  priority : Nat
  arrival : Nat
  deriving DecidableEq, Repr

/-- The state of the front of a channel queue (R37). -/
inductive Front where
  | channelWait
  | heatWait (expiry : Nat)
  | admission
  deriving DecidableEq, Repr

/-- One coil channel with its heat record. -/
structure Channel where
  profile : Profile
  phase : Phase
  pulse : Option Pulse
  fault : Option FaultRecord
  queue : List QueueMember
  front : Front
  /-- The arrival position the next arrival takes (R32). -/
  arrivals : Nat
  /-- The short-check interval (R31). -/
  shortAt : Option Nat
  heat : Nat
  /-- The moment of the last update (R38). -/
  heatAt : Nat
  /-- The effective fold duty (R40). -/
  effectiveFold : Nat
  deriving DecidableEq, Repr

/-! ## Rail admission arbiter -/

/-- A member of the admission list (04, 4.1). -/
structure Member where
  channel : Chan
  owner : Owner
  priority : Nat
  draw : Nat
  join : Nat
  deriving DecidableEq, Repr

/-- What the arbiter holds (04, 4.1). -/
structure Arbiter where
  budget : Nat
  reserve : Nat
  units : Nat
  list : List Member
  joins : Nat
  deriving DecidableEq, Repr

/-! ## Order rings, pending table, completions and chains -/

/-- The kinds of an order (05, 5.1). -/
inductive OrderKind where
  | pulse
  | train
  | hold
  deriving DecidableEq, Repr

/-- An order in its working values (R73). -/
structure Order where
  tag : Byte
  channel : Chan
  kind : OrderKind
  priority : Nat
  fraction : Nat
  count : Nat
  gap : Nat
  follow : Bool
  quiet : Bool
  due : Option TableTime
  deriving DecidableEq, Repr

/-- The statuses of a completion record (R94). -/
inductive EndStatus where
  | done
  | released
  | cancelled
  | overtime
  | channelFault
  | channelOffline
  | chainBroken
  | oversize
  | modeAbort
  | alarmAbort
  deriving DecidableEq, Repr

/-- The marks of a ring slot (R78). -/
inductive Mark where
  | cancelled
  | modeAbort
  | alarmAbort
  deriving DecidableEq, Repr

/-- A held slot of a request ring (R77, R78). -/
structure Slot where
  order : Order
  mark : Option Mark
  deriving DecidableEq, Repr

/-- Where a pending entry stands (R84). CHANNEL_WAIT, HEAT_WAIT and ADMISSION are `queued`: which of
the three it is stands in the channel (`Channel.front`). -/
inductive Stage where
  | following (predecessor : Byte)
  | scheduled (expiry : Nat)
  | queued
  | running
  | doneHeld
  deriving DecidableEq, Repr

/-- A pending entry (R83). -/
structure Entry where
  port : Port
  order : Order
  stage : Stage
  steps : Nat
  arrival : Option Nat
  firstKick : Option TableTime
  lastCause : Option Cause
  stopAfterStep : Bool
  heatWaited : Bool
  railWaited : Bool
  folded : Bool
  deriving DecidableEq, Repr

/-- A completion record (R93). -/
structure Completion where
  tag : Byte
  channel : Chan
  kind : OrderKind
  status : EndStatus
  steps : Nat
  firstKick : Option TableTime
  endTime : TableTime
  heatWaited : Bool
  railWaited : Bool
  folded : Bool
  deriving DecidableEq, Repr

/-- The outcome of a chain tail (06, 6.3). -/
inductive TailOutcome where
  | live
  | good
  | bad
  deriving DecidableEq, Repr

/-- A chain tail: the tag of the tail entry while it is live, and the outcome (06, 6.3). -/
structure Tail where
  entry : Option Byte
  outcome : TailOutcome
  deriving DecidableEq, Repr

/-- A request ring: its head and the held slots from the head on (05, 5.2). -/
structure Ring where
  head : Nat
  slots : List Slot
  deriving DecidableEq, Repr

/-! ## Switches and reflexes -/

/-- What is kept for a switch (07, 7.1). The debounce interval runs away from the debounced state. -/
structure Switch where
  /-- The polarity: true for CLOSED HIGH. -/
  closedHigh : Bool
  closeTime : Nat
  openTime : Nat
  /-- The debounced state: true for CLOSED. -/
  closed : Bool
  debounceAt : Option Nat
  deriving DecidableEq, Repr

/-- What a reflex entry did with an edge (07, 7.2). -/
inductive ReflexAct where
  | trigger
  | release
  | withdraw
  | rearm
  | ignored
  deriving DecidableEq, Repr

/-- The reflex part of a switch event record (R120). -/
structure ReflexPart where
  entry : ReflexNo
  act : ReflexAct
  heatWaited : Bool
  railWaited : Bool
  dropped : Bool
  deriving DecidableEq, Repr

/-- A switch event record (07, 7.2). -/
structure SwitchEvent where
  switch : SwitchNo
  /-- The edge: true for CLOSE. -/
  close : Bool
  time : TableTime
  lostBefore : Option Nat
  reflex : Option ReflexPart
  deriving DecidableEq, Repr

/-- A port's subscription set, switch event queue and lost count (07, 7.2). -/
structure Subscription where
  set : BitVec 32
  events : List SwitchEvent
  lost : Nat
  deriving DecidableEq, Repr

/-- The actions of a reflex entry (07, 7.3). -/
inductive Action where
  | fire
  | flip
  | tilt
  deriving DecidableEq, Repr

/-- The states of a reflex entry (07, 7.3). -/
inductive ReflexState where
  | disarmed
  | armed
  | waiting
  | active
  | spent
  deriving DecidableEq, Repr

/-- The drop causes of a report (R121). -/
inductive DropCause where
  | oversize
  | channelOffline
  | channelFault
  deriving DecidableEq, Repr

/-- The report of a reflex entry (07, 7.3). -/
structure Report where
  heatWaited : Bool
  railWaited : Bool
  folded : Bool
  drop : Option DropCause
  lastEnd : Option Cause
  deriving DecidableEq, Repr

/-- A reflex entry (07, 7.3). The channel is kept as carried: a TILT entry does not use it. -/
structure Reflex where
  switch : SwitchNo
  openEdge : Bool
  action : Action
  channel : Byte
  inAttract : Bool
  inGame : Bool
  enabled : Bool
  state : ReflexState
  report : Report
  deriving DecidableEq, Repr

/-! ## Mode controller -/

/-- The table modes (08). -/
inductive Mode where
  | idle
  | attract
  | game
  | tilt
  | service
  | alarm
  deriving DecidableEq, Repr

/-- The rail states, SETTLING with its expiry (R134). -/
inductive Rail where
  | off
  | settling (expiry : Nat)
  | on
  deriving DecidableEq, Repr

/-- The causes of a table alarm, SHORT with its channel (08, 8.4). -/
inductive AlarmCause where
  | short (c : Chan)
  | railLost
  | railNoRise
  deriving DecidableEq, Repr

/-- The alarm record (08, 8.4). -/
structure AlarmRecord where
  cause : AlarmCause
  time : TableTime
  later : Option AlarmCause
  laterCount : Nat
  deriving DecidableEq, Repr

/-- What the mode controller holds (08, 8.1). -/
structure Control where
  mode : Mode
  rail : Rail
  railLossAt : Option Nat
  alarm : Option AlarmRecord
  /-- Short checks whose expiry fell on the value at which ALARM was entered and that have not
  learnt that the rail has left ON (R139). -/
  lateShorts : List Chan
  /-- The same of the rail-loss interval (R139). -/
  lateRailLoss : Bool
  deriving DecidableEq, Repr

/-! ## Lamp unit -/

/-- The blink patterns (R143). -/
inductive Pattern where
  | steady
  | blinkA
  | blinkB
  deriving DecidableEq, Repr

/-- The content of a LIT cell (R143). -/
structure Light where
  level : Nat
  pattern : Pattern
  rate : Rate
  deriving DecidableEq, Repr

/-- One lamp: its cells (none for TRANSPARENT) and its output state (09, 9.1). -/
structure Lamp where
  showCell : Option Light
  rulesCell : Option Light
  testCell : Option Light
  inrush : Bool
  warm : Bool
  coolAt : Option Nat
  drive : Nat
  /-- The inrush slot the lamp holds, as its inrush expiry (R151). -/
  slotAt : Option Nat
  deriving DecidableEq, Repr

/-- What the lamp unit holds (09, 9.1). -/
structure LampUnit where
  lamps : Vector Lamp 40
  inrushTime : Nat
  slotLimit : Nat
  staging : List LampNo
  deriving DecidableEq, Repr

/-! ## Ports -/

/-- A port comparator and its CLOCK_ALARM condition (R7, R10). -/
structure Comparator where
  value : TableTime
  armed : Bool
  alarm : Bool
  deriving DecidableEq, Repr

/-- What the attention unit holds for a port (10, 10.1). -/
structure Attention where
  priorities : Vector Nat 7
  threshold : Nat
  lowMark : Nat
  faultEdge : Bool
  modeEdge : Bool
  /-- The ATTN line: true for asserted. -/
  line : Bool
  deriving DecidableEq, Repr

/-- The receive buffer of a link port (11, 11.1). The expected length is the first byte. -/
inductive Receive where
  | empty
  | part (bytes : List Byte)
  | discarding
  deriving DecidableEq, Repr

/-- A complete frame: its bytes, or the bad frame that DISCARDING completes as (R164). -/
inductive Frame where
  | bytes (bytes : List Byte)
  | discarded
  deriving DecidableEq, Repr

/-- A reset that awaits a reply's end (R171, R172). -/
inductive ResetKind where
  | port
  | table
  deriving DecidableEq, Repr

/-- A link port (11, 11.1). -/
structure Link where
  receive : Receive
  gapAt : Option Nat
  held : Option Frame
  lost : Bool
  /-- The transmitter: the reply being sent, or idle. -/
  sending : Option (List Byte)
  awaiting : Option ResetKind
  deriving DecidableEq, Repr

/-- All that is held once for each port. -/
structure PortState where
  comparator : Comparator
  ring : Ring
  tail : Tail
  completions : List Completion
  held : List Completion
  switches : Subscription
  attention : Attention
  link : Link
  deriving DecidableEq, Repr

/-- The input pins: true for high. -/
structure Pins where
  resetn : Bool
  railok : Bool
  sense : Vector Bool 24
  switch : Vector Bool 32
  deriving DecidableEq, Repr

/-- The state of the part, and the queue of the commands that wait. -/
structure State where
  /-- Whether the supply is in its operating range (R173). -/
  powered : Bool
  pins : Pins
  /-- Advances of the table clock since power-on (R1, R6). -/
  now : Nat
  ports : PerPort PortState
  /-- The pending table, in the order of the takes (R79, R96). -/
  table : List Entry
  channels : Vector Channel 24
  arbiter : Arbiter
  switches : Vector Switch 32
  reflexes : Vector Reflex 16
  control : Control
  lampUnit : LampUnit
  /-- Free choices made so far (the model's own). -/
  free : Nat
  /-- The commands that wait, first in, first out. -/
  pending : List Instr
  deriving DecidableEq, Repr

/-- The part has no event that stops it, so no step ends in a fault. -/
inductive Fault where
  deriving DecidableEq, Repr

/-- Why a step has no meaning. -/
inductive Refusal where
  /-- Raised by `exec` alone, for a row without a meaning; safe. No row of this model uses it. -/
  | notModelled (mnemonic : String)
  deriving DecidableEq, Repr

/-! ## Power-on values -/

/-- The default profile (02, 2.2; R16). -/
def Profile.default : Profile where
  enabled := false
  overtimeLatches := false
  posting := .const false
  kickTime := 1
  kickDraw := 1
  holdDuty := 0
  foldDuty := 0
  heatFactor := 1
  cooling := 255
  ceiling := 16777215
  recycle := 0
  maxOn := 6000000
  senseDelay := 0

/-- A channel at power-on (R36, R38). -/
def Channel.default : Channel where
  profile := .default
  phase := .offline
  pulse := none
  fault := none
  queue := []
  front := .channelWait
  arrivals := 0
  shortAt := none
  heat := 0
  heatAt := 0
  effectiveFold := 0

/-- The arbiter at power-on (R71). -/
def Arbiter.default : Arbiter where
  budget := 0
  reserve := 0
  units := 0
  list := []
  joins := 0

/-- The cleared report (R127). -/
def Report.clear : Report where
  heatWaited := false
  railWaited := false
  folded := false
  drop := none
  lastEnd := none

/-- A reflex entry at power-on (R127). -/
def Reflex.default : Reflex where
  switch := 0
  openEdge := false
  action := .fire
  channel := 0
  inAttract := false
  inGame := true
  enabled := false
  state := .disarmed
  report := .clear

/-- A switch at power-on whose raw level is `high`, under the default polarity CLOSED LOW (R109). -/
def Switch.default (high : Bool) : Switch where
  closedHigh := false
  closeTime := 30
  openTime := 30
  closed := !high
  debounceAt := none

/-- The mode controller at power-on (R142). -/
def Control.default : Control where
  mode := .idle
  rail := .off
  railLossAt := none
  alarm := none
  lateShorts := []
  lateRailLoss := false

/-- A lamp at power-on (R155). -/
def Lamp.default : Lamp where
  showCell := none
  rulesCell := none
  testCell := none
  inrush := true
  warm := false
  coolAt := none
  drive := 0
  slotAt := none

/-- The lamp unit at power-on (R155). -/
def LampUnit.default : LampUnit where
  lamps := .replicate 40 .default
  inrushTime := 400
  slotLimit := 4
  staging := []

/-- A link port at power-on (R170). -/
def Link.default : Link where
  receive := .empty
  gapAt := none
  held := none
  lost := false
  sending := none
  awaiting := none

/-- The attention settings of a port at power-on (R162). -/
def Attention.default : Attention where
  priorities := .replicate 7 0
  threshold := 0
  lowMark := 0
  faultEdge := false
  modeEdge := false
  line := false

/-- A port at power-on (R7, R92, R108, R117, R162, R170). -/
def PortState.default : PortState where
  comparator := ⟨0, false, false⟩
  ring := ⟨0, []⟩
  tail := ⟨none, .good⟩
  completions := []
  held := []
  switches := ⟨0, [], 0⟩
  attention := .default
  link := .default

/-- The input pins of the model's start: RESETN high, RAILOK and every SENSE low, every switch input
high as its pull-up gives it. DESIGN CHOICE, unsafe (assumption 7). -/
def Pins.atStart : Pins where
  resetn := true
  railok := false
  sense := .replicate 24 false
  switch := .replicate 32 true

/-- The part right after power-on: every block at its power-on values (R173), no command waiting. -/
def State.reset : State where
  powered := true
  pins := .atStart
  now := 0
  ports := .const .default
  table := []
  channels := .replicate 24 .default
  arbiter := .default
  switches := .replicate 32 (.default true)
  reflexes := .replicate 16 .default
  control := .default
  lampUnit := .default
  free := 0
  pending := []

end Sys2Proof.Machine
end

