-- ==== Sys2Proof/Machine/Ops.lean ====
section
/-!
DEFINITION. The named reads and writes of the state, table time and the test "reached", and the
outputs that are functions of the state. Every block reads and writes its tables through these.
-/

namespace Sys2Proof.Machine

/-! ## Tables -/

/-- All that is held for one port. -/
def State.port (s : State) (p : Port) : PortState := s.ports.get p

/-- The state with one port's record changed. -/
def State.modPort (s : State) (p : Port) (f : PortState → PortState) : State :=
  { s with ports := s.ports.set p (f (s.ports.get p)) }

/-- One coil channel. -/
def State.chan (s : State) (c : Chan) : Channel := s.channels[c]

/-- The state with one channel changed. -/
def State.modChan (s : State) (c : Chan) (f : Channel → Channel) : State :=
  { s with channels := s.channels.set c (f s.channels[c]) }

/-- One switch. -/
def State.switchAt (s : State) (n : SwitchNo) : Switch := s.switches[n]

/-- The state with one switch changed. -/
def State.modSwitch (s : State) (n : SwitchNo) (f : Switch → Switch) : State :=
  { s with switches := s.switches.set n (f s.switches[n]) }

/-- One reflex entry. -/
def State.reflexAt (s : State) (x : ReflexNo) : Reflex := s.reflexes[x]

/-- The state with one reflex entry changed. -/
def State.modReflex (s : State) (x : ReflexNo) (f : Reflex → Reflex) : State :=
  { s with reflexes := s.reflexes.set x (f s.reflexes[x]) }

/-- One lamp. -/
def State.lamp (s : State) (l : LampNo) : Lamp := s.lampUnit.lamps[l]

/-- The state with one lamp changed. -/
def State.modLamp (s : State) (l : LampNo) (f : Lamp → Lamp) : State :=
  { s with lampUnit := { s.lampUnit with lamps := s.lampUnit.lamps.set l (f s.lampUnit.lamps[l]) } }

/-- Whether an entry is the one of a port and tag. -/
def Entry.is (e : Entry) (p : Port) (tag : Byte) : Bool :=
  e.port == p && e.order.tag == tag

/-- The pending entry of a port and tag (R76: at most one). -/
def State.entry (s : State) (p : Port) (tag : Byte) : Option Entry :=
  s.table.find? (·.is p tag)

/-- Whether an entry's order has not ended (R84: every state but DONE_HELD). -/
def Entry.live (e : Entry) : Bool := e.stage != .doneHeld

/-- An entry moved to another stage; an ended order's entry stays as it is (R90). -/
def Entry.moveTo (e : Entry) (stage : Stage) : Entry :=
  if e.live then { e with stage := stage } else e

/-- The pending entry of a port and tag whose order has not ended. -/
def State.liveEntry (s : State) (p : Port) (tag : Byte) : Option Entry :=
  s.table.find? fun e => e.is p tag && e.live

/-- The state with the entry of a port and tag changed. -/
def State.modEntry (s : State) (p : Port) (tag : Byte) (f : Entry → Entry) : State :=
  { s with table := s.table.map fun e => if e.is p tag then f e else e }

/-- The state with the entry of a port and tag freed (R90). -/
def State.freeEntry (s : State) (p : Port) (tag : Byte) : State :=
  { s with table := s.table.filter fun e => !e.is p tag }

/-- The pending entries of a port, in any state (R79). -/
def State.entriesOf (s : State) (p : Port) : List Entry :=
  s.table.filter (·.port == p)

/-! ## Numbers out of range -/

/-- The channel a byte names, if it is below 24. -/
def channelOf (b : Byte) : Option Chan :=
  if h : b.toNat < 24 then some ⟨b.toNat, h⟩ else none

/-- The switch a byte names, if it is below 32. -/
def switchOf (b : Byte) : Option SwitchNo :=
  if h : b.toNat < 32 then some ⟨b.toNat, h⟩ else none

/-- The lamp a byte names, if it is below 40. -/
def lampOf (b : Byte) : Option LampNo :=
  if h : b.toNat < 40 then some ⟨b.toNat, h⟩ else none

/-- The reflex entry a byte names, if it is below 16. -/
def reflexOf (b : Byte) : Option ReflexNo :=
  if h : b.toNat < 16 then some ⟨b.toNat, h⟩ else none

/-! ## Table time -/

/-- The table time of a moment (R1, R5). -/
def stampOf (moment : Nat) : TableTime := BitVec.ofNat 32 moment

/-- The present table time (R1). -/
def State.time (s : State) : TableTime := stampOf s.now

/-- The test "reached" of a table time at the table time `now` (R4). -/
def reached (now t : TableTime) : Bool := (now - t).toNat < 2 ^ 31

/-- Whether an interval has an expiry that the clock has come to (R6). -/
def State.expired (s : State) (interval : Option Nat) : Bool :=
  match interval with
  | some expiry => expiry ≤ s.now
  | none => false

/-! ## Outputs -/

/-- Whether a pulse is live in this state of the channel: KICK, HOLD or FOLD (00_scope.md; R14). -/
def Phase.isLive : Phase → Bool
  | .kick => true
  | .hold => true
  | .fold => true
  | .offline => false
  | .idle => false
  | .recycle => false
  | .faulted => false

/-- Whether the channel is short-checked in this state while the rail is ON (R31). -/
def Phase.isWatched : Phase → Bool
  | .idle => true
  | .faulted => true
  | .offline => true
  | .kick => false
  | .hold => false
  | .fold => false
  | .recycle => false

/-- The sixteenths of each PWM period for which GATEn is on (R14). -/
def gateSixteenths (s : State) (c : Chan) : Nat :=
  if s.powered then
    match (s.chan c).phase with
    | .kick => 16
    | .hold => (s.chan c).profile.holdDuty
    | .fold => (s.chan c).effectiveFold
    | _ => 0
  else 0

/-- The output level on LAMPn: the drive level, or 0 while the lamp is staged (R148). -/
def lampOutput (s : State) (l : LampNo) : Nat :=
  if s.lampUnit.staging.contains l then 0 else (s.lamp l).drive

/-- RAILEN: driven in SETTLING and ON (R134). -/
def railEnable (s : State) : Bool :=
  match s.control.rail with
  | .off => false
  | .settling _ => true
  | .on => true

/-- Whether the rail state is ON. -/
def State.railOn (s : State) : Bool := s.control.rail == .on

/-! ## Modes -/

/-- Whether the table mode allows a port's orders (R75). -/
def modeAllows : Mode → Port → Bool
  | .idle, _ => false
  | .attract, .p0 => true
  | .attract, .p1 => true
  | .attract, .p2 => false
  | .game, .p0 => true
  | .game, .p1 => true
  | .game, .p2 => false
  | .tilt, .p0 => true
  | .tilt, .p1 => false
  | .tilt, .p2 => false
  | .service, .p0 => false
  | .service, .p1 => false
  | .service, .p2 => true
  | .alarm, _ => false

/-- Whether profiles, switch configurations and reflex entries may be written: from P0 in IDLE and
ATTRACT, from P2 in IDLE and SERVICE (R18, R112, R118). -/
def configAllowed : Mode → Port → Bool
  | .idle, .p0 => true
  | .attract, .p0 => true
  | .idle, .p2 => true
  | .service, .p2 => true
  | _, _ => false

/-- Whether the rail may be written: from P0 in every mode but SERVICE, from P2 in IDLE and SERVICE
(R55). -/
def railWriteAllowed : Mode → Port → Bool
  | .service, .p0 => false
  | _, .p0 => true
  | .idle, .p2 => true
  | .service, .p2 => true
  | _, _ => false

end Sys2Proof.Machine
end

