-- ==== Sys2Proof/Machine/Lamps.lean ====
section
/-!
DEFINITION. The lamp unit (09_lamp_layers_and_inrush_staging.md): composite, blink phase, drive level,
starts, inrush slots, the staging list and the cool-down.
-/

namespace Sys2Proof.Machine

/-- The layers of a lamp, and NONE (11, section 11.4). -/
inductive Layer where
  | none
  | showLayer
  | rules
  | test
  deriving DecidableEq, Repr

/-- The composite of a lamp: its highest counted cell that is LIT, with its layer. TEST is counted in
SERVICE (R145). -/
def Lamp.composite (lamp : Lamp) (mode : Mode) : Option (Layer × Light) :=
  let counted := if mode == .service then lamp.testCell else none
  match counted with
  | some light => some (.test, light)
  | none =>
    match lamp.rulesCell with
    | some light => some (.rules, light)
    | none =>
      match lamp.showCell with
      | some light => some (.showLayer, light)
      | none => none

/-- The half-period of a blink rate in ticks (R146). -/
def halfPeriod (r : Rate) : Nat := Config.blinkHalfPeriod * 2 ^ r.val

/-- The phase index of a rate at a table time (R146). -/
def phaseIndex (time : TableTime) (r : Rate) : Nat := time.toNat / halfPeriod r

/-- Whether a cell is in its lit phase at a table time (R146). -/
def Light.litPhase (light : Light) (time : TableTime) : Bool :=
  match light.pattern with
  | .steady => true
  | .blinkA => phaseIndex time light.rate % 2 == 0
  | .blinkB => phaseIndex time light.rate % 2 == 1

/-- The drive level a lamp's cells, the mode and the table time ask for (R146). -/
def Lamp.driveLevel (lamp : Lamp) (mode : Mode) (time : TableTime) : Nat :=
  match lamp.composite mode with
  | none => 0
  | some (_, light) => if light.litPhase time then light.level else 0

/-- Whether a lamp is unlit: it has no composite or a composite level of 0 (R149). -/
def Lamp.unlit (lamp : Lamp) (mode : Mode) : Bool :=
  match lamp.composite mode with
  | none => true
  | some (_, light) => light.level == 0

/-- The cool-down interval of a lamp after an event: it runs while the lamp is WARM and unlit (R149). -/
def Lamp.decideCoolDown (lamp : Lamp) (mode : Mode) (now : Nat) : Lamp :=
  if lamp.warm && lamp.unlit mode then
    { lamp with coolAt := lamp.coolAt.or (some (now + Config.coolDownTicks)) }
  else { lamp with coolAt := none }

/-- The inrush slots in use (R151). -/
def LampUnit.slotsInUse (u : LampUnit) : Nat :=
  (u.lamps.toList.filter fun lamp => lamp.slotAt.isSome).length

/-- A slot is granted to a lamp: its inrush interval starts and it becomes WARM (R151). -/
def State.grantSlot (s : State) (l : LampNo) : State :=
  s.modLamp l fun lamp =>
    { lamp with slotAt := some (s.now + s.lampUnit.inrushTime), warm := true }

/-- A lamp leaves the staging list (R152). -/
def State.unstage (s : State) (l : LampNo) : State :=
  { s with lampUnit := { s.lampUnit with staging := s.lampUnit.staging.filter (· != l) } }

/-- A lamp joins the tail of the staging list (R150, R152). -/
def State.stage (s : State) (l : LampNo) : State :=
  { s with lampUnit := { s.lampUnit with staging := s.lampUnit.staging ++ [l] } }

/-- The start of a lamp whose drive level rises from 0 (R150). -/
def State.startLamp (s : State) (l : LampNo) : State :=
  let lamp := s.lamp l
  if !lamp.inrush then s.modLamp l fun lamp => { lamp with warm := true }
  else if lamp.warm then s
  else if s.lampUnit.slotsInUse < s.lampUnit.slotLimit then s.grantSlot l
  else s.stage l

/-- The drive level of a lamp is decided anew and the change, if any, is acted on (R148, R149). -/
def State.redrive (s : State) (l : LampNo) : State :=
  let lamp := s.lamp l
  let level := lamp.driveLevel s.control.mode s.time
  let s1 :=
    if lamp.drive == level then s
    else if lamp.drive == 0 then s.startLamp l
    else if level == 0 then s.unstage l
    else s
  s1.modLamp l fun lamp =>
    { lamp with drive := level }.decideCoolDown s.control.mode s.now

/-- The drive levels of lamps decided anew, one after another from the lowest number (R148). -/
def State.redriveAll (s : State) (which : LampNo → Bool) : State :=
  ((allFin 40).filter which).foldl State.redrive s

/-- The oldest staged lamps are granted slots while the slots in use are below the limit (R151). -/
def grantStaged : List LampNo → State → State
  | [], s => s
  | l :: rest, s =>
    if s.lampUnit.slotsInUse < s.lampUnit.slotLimit then
      grantStaged rest ({ s with lampUnit := { s.lampUnit with staging := rest } }.grantSlot l)
    else s

/-- The staging list is served (R151, R153). -/
def State.serveStaging (s : State) : State := grantStaged s.lampUnit.staging s

/-- Whether a lamp's composite blinks at a rate (R147). -/
def Lamp.blinksAt (lamp : Lamp) (mode : Mode) (r : Rate) : Bool :=
  match lamp.composite mode with
  | none => false
  | some (_, light) => light.pattern != .steady && light.rate == r

/-- LAMP_PHASE_EVENT: the drive levels of the lamps that blink at a rate are decided anew (R147). -/
def State.takeLampPhase (s : State) (r : Rate) : State :=
  s.redriveAll fun l => (s.lamp l).blinksAt s.control.mode r

/-- COOL_DOWN_EXPIRY: the lamp becomes COLD (R149). -/
def State.takeCoolDown (s : State) (l : LampNo) : State :=
  if s.expired (s.lamp l).coolAt then
    s.modLamp l fun lamp => { lamp with warm := false, coolAt := none }
  else s

/-- INRUSH_EXPIRY: the slot is released and the staging list served (R151). -/
def State.takeInrush (s : State) (l : LampNo) : State :=
  if s.expired (s.lamp l).slotAt then
    (s.modLamp l fun lamp => { lamp with slotAt := none }).serveStaging
  else s

/-- A lamp at a table reset: its cells, flag, slot and drive at their defaults, its filament kept and
its cool-down run (R155). -/
def Lamp.tableReset (now : Nat) (lamp : Lamp) : Lamp :=
  { Lamp.default with warm := lamp.warm, coolAt := lamp.coolAt }.decideCoolDown .idle now

end Sys2Proof.Machine
end

