-- ==== Sys2Proof/Machine/Flags.lean ====
section
/-!
DEFINITION. The flags of the part: the attention sources and the ATTN line of each port (10), the
edge flags (R157), and the FLAGS byte of a reply (R167).
-/

namespace Sys2Proof.Machine

/-- The code of a table mode (11, section 11.4). -/
def Mode.code : Mode → Nat
  | .idle => 0
  | .attract => 1
  | .game => 2
  | .tilt => 3
  | .service => 4
  | .alarm => 5

/-- The free slots of a port's ring (R81). -/
def PortState.freeSlots (ps : PortState) : Nat := Config.ringSize - ps.ring.slots.length

/-- Whether the RING_LOW condition of a port holds (R81). -/
def PortState.ringLow (ps : PortState) : Bool := ps.freeSlots ≤ ps.attention.lowMark

/-- Whether a source of a port, numbered 1 to 7, is pending (R156). -/
def sourcePending (mode : Mode) (ps : PortState) : Nat → Bool
  | 1 => mode == .alarm
  | 2 => ps.attention.faultEdge
  | 3 => ps.attention.modeEdge
  | 4 => ps.comparator.alarm
  | 5 => !ps.switches.events.isEmpty
  | 6 => !ps.completions.isEmpty
  | 7 => ps.ringLow
  | _ => false

/-- The priority of a source of a port, numbered 1 to 7 (10, 10.1). R161 and section 11.4 give WRITE ATTENTION seven
priorities and not which source each is for; the model takes them in the order of the source numbers of R156,
source 1 first. DEDUCED, unsafe (assumption 34). -/
def PortState.priority (ps : PortState) (source : Nat) : Nat :=
  ps.attention.priorities.toList.getD (source - 1) 0

/-- The numbers of the seven sources (R156). -/
def allSources : List Nat := [1, 2, 3, 4, 5, 6, 7]

/-- Whether a port's ATTN line is to be asserted: a pending source has a priority greater than the
threshold (R158). -/
def lineAsserted (mode : Mode) (ps : PortState) : Bool :=
  allSources.any fun n => sourcePending mode ps n && ps.attention.threshold < ps.priority n

/-- A port with its ATTN line decided anew (R158). -/
def PortState.decideLine (mode : Mode) (ps : PortState) : PortState :=
  { ps with attention := { ps.attention with line := lineAsserted mode ps } }

/-- The state with every ATTN line decided anew, as the end of every event leaves it (R158). -/
def State.decideLines (s : State) : State :=
  { s with
    ports :=
      { p0 := s.ports.p0.decideLine s.control.mode
        p1 := s.ports.p1.decideLine s.control.mode
        p2 := s.ports.p2.decideLine s.control.mode } }

/-- The better of two sources for TAKE EVENT: the higher priority, and the first at a tie (R159). -/
def betterSource (ps : PortState) (best : Option Nat) (n : Nat) : Option Nat :=
  match best with
  | none => some n
  | some b => if ps.priority b < ps.priority n then some n else some b

/-- The source TAKE EVENT chooses: the pending source of the highest priority above 0, at a tie the
lower number (R159). -/
def chosenSource (mode : Mode) (ps : PortState) : Option Nat :=
  (allSources.filter fun n => sourcePending mode ps n && 0 < ps.priority n).foldl (betterSource ps) none

/-- The CHANNEL_FAULT edge set on every port (R29, R157). -/
def State.setFaultEdges (s : State) : State :=
  let f : PortState → PortState := fun ps => { ps with attention := { ps.attention with faultEdge := true } }
  { s with ports := ⟨f s.ports.p0, f s.ports.p1, f s.ports.p2⟩ }

/-- The MODE_CHANGE edge set on every port (R131, R157). -/
def State.setModeEdges (s : State) : State :=
  let f : PortState → PortState := fun ps => { ps with attention := { ps.attention with modeEdge := true } }
  { s with ports := ⟨f s.ports.p0, f s.ports.p1, f s.ports.p2⟩ }

/-- The FLAGS byte of a reply: bit 7 FRAMES_LOST, bits 2 to 0 the mode code (R167, section 11.5). -/
def flagsByte (lost : Bool) (mode : Mode) : Byte :=
  BitVec.ofNat 8 ((if lost then 128 else 0) + mode.code)

end Sys2Proof.Machine
end

