-- ==== Sys2Proof/Machine/Heat.lean ====
section
/-!
DEFINITION. Heat accounting (03_heat_accounting.md) and the change of a channel's state with the units
in use that go with it (R15, R57).
-/

namespace Sys2Proof.Machine

/-! ## Draws and the fold-duty clamp -/

/-- The HOLD draw D_h (R39). -/
def Profile.holdDraw (pr : Profile) : Nat := ceilDiv (pr.kickDraw * pr.holdDuty) 16

/-- The draw at a duty of d sixteenths, rounded up (R39, R40). -/
def Profile.drawAt (pr : Profile) (d : Nat) : Nat := ceilDiv (pr.kickDraw * d) 16

/-- The largest number from 0 up to n that meets a condition; 0 if none above 0 does. -/
def largestUpTo (ok : Nat → Bool) : Nat → Nat
  | 0 => 0
  | n + 1 => if ok (n + 1) then n + 1 else largestUpTo ok n

/-- The effective fold duty of a profile (R40). -/
def Profile.foldDutyInForce (pr : Profile) : Nat :=
  largestUpTo (fun d => pr.drawAt d * pr.heatFactor < pr.cooling) (min pr.foldDuty pr.holdDuty)

/-- The draw of a channel in a state (R15, R39). -/
def Channel.drawIn (ch : Channel) : Phase → Nat
  | .kick => ch.profile.kickDraw
  | .hold => ch.profile.holdDraw
  | .fold => ch.profile.drawAt ch.effectiveFold
  | .offline => 0
  | .idle => 0
  | .recycle => 0
  | .faulted => 0

/-- The draw of the channel's present state. -/
def Channel.draw (ch : Channel) : Nat := ch.drawIn ch.phase

/-! ## Rates and the update -/

/-- The net rate at a draw: draw times heat factor, less the cooling (R41). -/
def Profile.netRateAt (pr : Profile) (draw : Nat) : Int :=
  (draw * pr.heatFactor : Nat) - (pr.cooling : Int)

/-- The net rate of the channel's present state (R41). -/
def Channel.netRate (ch : Channel) : Int := ch.profile.netRateAt ch.draw

/-- The heat after t ticks at the net rate n, clamped to 0 and 16,777,215 (R42). -/
def heatAfter (heat : Nat) (n : Int) (t : Nat) : Nat :=
  min Config.heatMax ((heat : Int) + n * t).toNat

/-- The heat a channel stands at, at a moment (R42). -/
def Channel.heatNow (ch : Channel) (now : Nat) : Nat :=
  heatAfter ch.heat ch.netRate (now - ch.heatAt)

/-- A channel with its heat brought up to date (R42). -/
def Channel.updateHeat (now : Nat) (ch : Channel) : Channel :=
  { ch with heat := ch.heatNow now, heatAt := now }

/-- Bring a channel's heat up to date (R42). -/
def State.updateHeat (s : State) (c : Chan) : State :=
  s.modChan c (Channel.updateHeat s.now)

/-! ## The kick test -/

/-- The kick length K of a kick fraction: ceil(kick time × k / 16) (R22). -/
def Profile.kickLength (pr : Profile) (fraction : Nat) : Nat := ceilDiv (pr.kickTime * fraction) 16

/-- The net rate of a kick, n_k (R41). -/
def Profile.kickRate (pr : Profile) : Int := pr.netRateAt pr.kickDraw

/-- The heat by which a kick of length K from a heat passes the ceiling (R46, R47). -/
def Profile.excess (pr : Profile) (heat : Nat) (length : Nat) : Int :=
  (heat : Int) + pr.kickRate * length - pr.ceiling

/-- Whether a kick of length K passes the kick test at a heat (R46). -/
def Profile.kickFits (pr : Profile) (heat : Nat) (length : Nat) : Bool :=
  pr.kickRate ≤ 0 || pr.excess heat length ≤ 0

/-- The cooling wait of a failed kick test, in ticks (R47). -/
def Profile.coolingWait (pr : Profile) (heat : Nat) (length : Nat) : Nat :=
  ceilDiv (pr.excess heat length).toNat pr.cooling

/-- Whether a profile is valid for firing (R45). -/
def Profile.canFire (pr : Profile) : Bool :=
  pr.kickRate ≤ 0 || pr.kickRate * pr.kickTime ≤ (pr.ceiling : Int)

/-- The fold time of a hold that starts at a heat, if its net rate is above 0 (R50). -/
def Profile.foldTime (pr : Profile) (heat : Nat) : Option Nat :=
  let n := pr.netRateAt pr.holdDraw
  if n ≤ 0 then none else some (((pr.ceiling : Int) - heat).toNat / n.toNat)

/-! ## Changes of state -/

/-- Units in use after a draw is left and another entered (R57). -/
def Arbiter.swapDraw (a : Arbiter) (left entered : Nat) : Arbiter :=
  { a with units := a.units + entered - left }

/-- A change of a channel's state: heat is brought up to date at the rate of the state left, and the
units in use move by the difference of the draws (R15, R42, R57). -/
def State.setPhase (s : State) (c : Chan) (phase : Phase) : State :=
  let ch := s.chan c
  { s.modChan c (fun ch => { ch.updateHeat s.now with phase := phase }) with
    arbiter := s.arbiter.swapDraw ch.draw (ch.drawIn phase) }

end Sys2Proof.Machine
end

