-- ==== Sys2Proof/Machine/Admission.lean ====
section
/-!
DEFINITION. The rail admission arbiter (04_rail_admission.md) and the kick test at the front of a
channel queue (R46 to R49). The argument `ex` says whether joins and departures make their own
examination: they do, but within a mode change they do not (R130).
-/

namespace Sys2Proof.Machine

/-! ## What a front asks for -/

/-- The kick fraction, pulse kind and gap of an owner's next kick: 16 and plain for a TRAIN step, 16
for a reflex request, plain for FIRE and hold for FLIP (R22). -/
structure KickShape where
  fraction : Nat
  kind : PulseKind
  gap : Nat
  deriving DecidableEq, Repr

/-- The shape of an order's kick (R22, R73). -/
def Order.kickShape (o : Order) : KickShape :=
  match o.kind with
  | .pulse => ⟨o.fraction, .plain, 0⟩
  | .hold => ⟨o.fraction, .hold, 0⟩
  | .train => ⟨16, .plain, o.gap⟩

/-- The shape of a reflex entry's kick (R22). -/
def Reflex.kickShape (r : Reflex) : KickShape :=
  match r.action with
  | .flip => ⟨16, .hold, 0⟩
  | .fire => ⟨16, .plain, 0⟩
  | .tilt => ⟨16, .plain, 0⟩

/-- The shape of an owner's kick. -/
def State.kickShape (s : State) : Owner → KickShape
  | .order p tag => ((s.entry p tag).map (·.order.kickShape)).getD ⟨16, .plain, 0⟩
  | .reflex x => (s.reflexAt x).kickShape

/-! ## What an owner is told while it waits -/

/-- The owner's request failed a kick test: HEAT_WAITED (R46, R121). -/
def State.tellHeatWait (s : State) : Owner → State
  | .order p tag => s.modEntry p tag fun e => { e with heatWaited := true }
  | .reflex x => s.modReflex x fun r => { r with report := { r.report with heatWaited := true } }

/-- The owner joined the admission list and was not granted in that examination: RAIL_WAITED (R64,
R121). -/
def State.tellRailWait (s : State) : Owner → State
  | .order p tag => s.modEntry p tag fun e => { e with railWaited := true }
  | .reflex x => s.modReflex x fun r => { r with report := { r.report with railWaited := true } }

/-- The owners of several members told that they waited for rail (R64, R130). -/
def State.tellRailWaits (s : State) (l : List Member) : State :=
  l.foldl (fun s m => s.tellRailWait m.owner) s

/-- The owner's pulse folded: FOLDED (R51, R123). -/
def State.tellFold (s : State) : Owner → State
  | .order p tag => s.modEntry p tag fun e => { e with folded := true }
  | .reflex x => s.modReflex x fun r => { r with report := { r.report with folded := true } }

/-- The owner's kick started: RUNNING with one more step and its first kick time, or ACTIVE (R86,
R121). -/
def State.tellKick (s : State) : Owner → State
  | .order p tag => s.modEntry p tag fun e =>
      { e.moveTo .running with
        steps := e.steps + 1
        firstKick := e.firstKick.or (some s.time) }
  | .reflex x => s.modReflex x fun r => { r with state := .active }

/-! ## The grant -/

/-- The pulse record of a grant (R22). -/
def State.newPulse (s : State) (m : Member) : Pulse :=
  let pr := (s.chan m.channel).profile
  let shape := s.kickShape m.owner
  { owner := m.owner
    owned := true
    kind := shape.kind
    kickLength := pr.kickLength shape.fraction
    start := s.now
    recycleLength := pr.recycle + shape.gap
    released := false
    latched := none
    openCheck := if 0 < pr.senseDelay then .pending else .none
    foldAt := none
    recycleAt := none }

/-- A kick grant: the member's kick starts in the same event. Its front leaves the channel queue, the
pulse record is created, the gate turns on, the units in use rise and a short check is abandoned
(R22, R31, R63, R86). -/
def State.grant (s : State) (m : Member) : State :=
  let pulse := s.newPulse m
  let s1 := s.setPhase m.channel .kick
  let s2 := s1.modChan m.channel fun ch =>
    { ch with
      pulse := some pulse
      queue := ch.queue.filter fun q => q.owner != m.owner
      front := .channelWait
      shortAt := none }
  s2.tellKick m.owner

/-- The limit that applies to a requester: B for a reflex request, B − V for a port order (04, 4.1). -/
def Arbiter.limit (a : Arbiter) : Owner → Nat
  | .order _ _ => a.budget - a.reserve
  | .reflex _ => a.budget

/-- Whether a member fits: U + D_k is at most its limit (R62). -/
def Arbiter.fits (a : Arbiter) (m : Member) : Bool := a.units + m.draw ≤ a.limit m.owner

/-- Grants from the front of the list while the rail is ON and the front fits (R62, R63). A grant is made
only to a channel in IDLE, which every listed member's channel is (R14, R65). -/
def examineFrom : List Member → State → State
  | [], s => s
  | m :: rest, s =>
    if s.railOn && s.arbiter.fits m && (s.chan m.channel).phase == .idle then
      examineFrom rest ({ s with arbiter := { s.arbiter with list := rest } }.grant m)
    else s

/-- An examination of the admission list (R63). -/
def State.examine (s : State) : State := examineFrom s.arbiter.list s

/-- An examination, unless it is put off to the end of a mode change (R130). -/
def State.examineIf (s : State) (ex : Bool) : State := if ex then s.examine else s

/-! ## Joins and departures -/

/-- A member placed behind every member of higher or equal priority, ahead of lower ones (R60). -/
def insertMember (m : Member) : List Member → List Member
  | [] => [m]
  | x :: xs => if x.priority < m.priority then m :: x :: xs else x :: insertMember m xs

/-- Whether a channel's front stands in the admission list. -/
def Arbiter.lists (a : Arbiter) (c : Chan) : Bool := a.list.any fun m => m.channel == c

/-- The front of a channel's queue joins the admission list, which is examined; if the member is not
granted then, its owner is told that it waited for rail (R60, R64). -/
def State.join (s : State) (ex : Bool) (c : Chan) (q : QueueMember) : State :=
  let m : Member :=
    { channel := c
      owner := q.owner
      priority := q.priority
      draw := (s.chan c).profile.kickDraw
      join := s.arbiter.joins }
  let s1 := s.modChan c fun ch => { ch with front := .admission }
  let s2 : State :=
    { s1 with
      arbiter :=
        { s1.arbiter with list := insertMember m s1.arbiter.list, joins := s1.arbiter.joins + 1 } }
  if ex then
    let s3 := s2.examine
    if s3.arbiter.lists c then s3.tellRailWait q.owner else s3
  else s2

/-- A channel's front leaves the admission list other than by a grant; the list is examined (R61). -/
def State.depart (s : State) (ex : Bool) (c : Chan) : State :=
  if s.arbiter.lists c then
    { s with
      arbiter := { s.arbiter with list := s.arbiter.list.filter fun m => m.channel != c } }.examineIf ex
  else s

/-- The testing front ahead of which a member arrives returns to CHANNEL_WAIT: its cooling wait is abandoned,
or it leaves the admission list (R34, R61). Within a mode change the one examination comes later and does not
grant it, so its owner is told here that it waited for rail (R64, R130). -/
def State.displace (s : State) (ex : Bool) (c : Chan) : State :=
  let s1 := if ex then s else s.tellRailWaits (s.arbiter.list.filter fun m => m.channel == c)
  (s1.modChan c fun ch => { ch with front := .channelWait }).depart ex c

/-! ## The tests of an offer -/

/-- The size test of a requester on a channel (R68). -/
def State.sizeOk (s : State) (c : Chan) (o : Owner) : Bool :=
  (s.chan c).profile.kickDraw ≤ s.arbiter.limit o

/-- The kick test on the front of a channel's queue: heat is brought up to date, and the front joins
the admission list or enters HEAT_WAIT with its cooling wait (R46, R47). -/
def State.kickTest (s : State) (ex : Bool) (c : Chan) : State :=
  match (s.chan c).queue with
  | [] => s
  | q :: _ =>
    let s1 := s.updateHeat c
    let ch := s1.chan c
    let length := ch.profile.kickLength (s.kickShape q.owner).fraction
    if ch.profile.kickFits ch.heat length then s1.join ex c q
    else
      let expiry := s.now + ch.profile.coolingWait ch.heat length
      (s1.modChan c fun ch => { ch with front := .heatWait expiry }).tellHeatWait q.owner

end Sys2Proof.Machine
end

