-- ==== Sys2Proof/Machine/ReflexTable.lean ====
section
/-!
DEFINITION. The states of the reflex entries that follow from what becomes of their requests and
pulses (07_switch_inputs_and_reflexes.md R119, R121, R123).
-/

namespace Sys2Proof.Machine

/-- Whether an entry is armed: enabled, with the table mode in its armed modes (R119). -/
def Reflex.isArmed (r : Reflex) (mode : Mode) : Bool :=
  r.enabled &&
    match mode with
    | .attract => r.inAttract
    | .game => r.inGame
    | .idle => false
    | .tilt => false
    | .service => false
    | .alarm => false

/-- An entry with no request, pulse or recycle: ARMED while it is armed, DISARMED while it is not
(R119). -/
def Reflex.restState (r : Reflex) (mode : Mode) : ReflexState :=
  if r.isArmed mode then .armed else .disarmed

/-- The state of an entry whose request its channel dropped or withdrew (R121). -/
def Reflex.afterDrop (r : Reflex) (mode : Mode) : ReflexState :=
  if r.isArmed mode then
    match r.action with
    | .flip => .spent
    | .fire => .armed
    | .tilt => .armed
  else .disarmed

/-- A request is dropped or withdrawn by its channel: the entry leaves WAITING and its report holds
the cause (R121). -/
def State.dropRequest (s : State) (x : ReflexNo) (cause : DropCause) : State :=
  s.modReflex x fun r =>
    { r with state := r.afterDrop s.control.mode, report := { r.report with drop := some cause } }

/-- The state of an entry at the recycle expiry of its pulse (R123). -/
def Reflex.afterRecycle (r : Reflex) (mode : Mode) (closed : Bool) : ReflexState :=
  if r.isArmed mode then
    match r.action with
    | .flip => if closed then .spent else .armed
    | .fire => .armed
    | .tilt => .armed
  else .disarmed

/-- The recycle of an entry's pulse ends: the entry leaves ACTIVE (R123). -/
def State.reflexRecycleEnd (s : State) (x : ReflexNo) : State :=
  s.modReflex x fun r =>
    { r with state := r.afterRecycle s.control.mode (s.switchAt r.switch).closed }

/-- The end of an entry's pulse is reported with its cause (R123). -/
def State.reflexPulseEnd (s : State) (x : ReflexNo) (cause : Cause) : State :=
  s.modReflex x fun r => { r with report := { r.report with lastEnd := some cause } }

end Sys2Proof.Machine
end

