-- ==== Sys2Proof/Machine/Orders.lean ====
section
/-!
DEFINITION. The order pipeline: takes, chains, due times, arrivals, offers, ends and completions
(01 R11, 02 R32 to R35, 05, 06). Inside one event these bring each other about: an end releases a
follower, frees an entry, lets the ring be taken, and so on. The parts still to be done stand in a
list of `Work`, done from its front; `workBound` bounds their number, and Laws/Orders.lean proves that
no work is ever left over.
-/

namespace Sys2Proof.Machine

/-- A part of an event that is still to be done. -/
inductive Work where
  /-- Offer the fronts of those of several channels that wait to be offered (R33, R34). -/
  | offer (cs : List Chan)
  /-- End an order (R90). -/
  | finish (p : Port) (tag : Byte) (status : EndStatus)
  /-- An entry is ready for its channel queue: test its due time (R11). -/
  | ready (p : Port) (tag : Byte)
  /-- An entry arrives at its channel queue (R35). -/
  | arrive (p : Port) (tag : Byte)
  /-- Take orders from a port's ring while it is below its quota (R79). -/
  | takes (p : Port)
  deriving DecidableEq, Repr

/-- What a part of an event leads to: parts done next, parts done last, and the state. -/
structure WorkResult where
  next : List Work
  last : List Work
  state : State

/-! ## The channel queue -/

/-- Whether a member stands ahead of another: higher priority, or equal and earlier arrival (R32). -/
def QueueMember.ahead (a b : QueueMember) : Bool :=
  b.priority < a.priority || (a.priority == b.priority && a.arrival < b.arrival)

/-- A member placed in a channel queue by priority and arrival (R32). -/
def insertQueue (q : QueueMember) : List QueueMember → List QueueMember
  | [] => [q]
  | x :: xs => if q.ahead x then q :: x :: xs else x :: insertQueue q xs

/-- Whether an owner is the testing front of an IDLE channel's queue (R33). -/
def Channel.isTestingFront (ch : Channel) (o : Owner) : Bool :=
  ch.phase == .idle && (ch.queue.head?.map (·.owner)) == some o

/-- A member leaves a channel queue other than by a grant. A testing front loses its cooling wait or
its place in the admission list (R34, R61). -/
def State.leaveQueue (s : State) (ex : Bool) (c : Chan) (o : Owner) : State :=
  let front := (s.chan c).isTestingFront o
  let s1 := s.modChan c fun ch =>
    { ch with
      queue := ch.queue.filter fun q => q.owner != o
      front := if front then .channelWait else ch.front }
  if front then s1.depart ex c else s1

/-- A member joins a channel queue at its position. Ahead of the present front of an IDLE channel it
displaces that front, and it is offered (R32, R33, R34). -/
def enqueue (ex : Bool) (c : Chan) (q : QueueMember) (s : State) : WorkResult :=
  let ch := s.chan c
  let s1 := s.modChan c fun ch => { ch with queue := insertQueue q ch.queue }
  if ch.phase == .idle && (s1.chan c).isTestingFront q.owner then
    ⟨[.offer [c]], [], s1.displace ex c⟩
  else ⟨[], [], s1⟩

/-- Whether the front of an IDLE channel's queue waits to be offered (R33). -/
def State.awaitsOffer (s : State) (c : Chan) : Bool :=
  (s.chan c).phase == .idle && (s.chan c).front == .channelWait && !(s.chan c).queue.isEmpty

/-- Whether a requester is the front of a channel's queue and fails the size test (R68). -/
def State.refuses (s : State) (c : Chan) (o : Owner) : Bool :=
  (s.chan c).queue.head?.any fun q => q.owner == o && !s.sizeOk c o

/-- Which of several channels offers its front next, among those whose front waits to be offered: one whose
front is a reflex request that is too large, then one whose front is a port order that is too large, the oldest
take first, so that the orders of a port that one event ends OVERSIZE on several channels end in the order of
their takes (R96), and then the others. At each choice the lowest channel goes first, which fixes the join
positions. DESIGN CHOICE, unsafe (assumption 29). -/
def State.nextOffer (s : State) (cs : List Chan) : Option Chan :=
  let waiting := cs.filter s.awaitsOffer
  ((waiting.find? fun c => (allFin 16).any fun x => s.refuses c (.reflex x)).or
    (s.table.findSome? fun e => waiting.find? fun c => s.refuses c (.order e.port e.order.tag))).or
    waiting.head?

/-- The fronts of several channels are offered, one after another. Each meets the size test and then the kick
test; a port order that is too large leaves its queue and ends OVERSIZE, a reflex request that is too large is
dropped, and the next member of that queue waits to be offered in its turn (R33, R34, R68, R96). -/
def offer (ex : Bool) (cs : List Chan) (s : State) : WorkResult :=
  match s.nextOffer cs with
  | none => ⟨[], [], s⟩
  | some c =>
    match (s.chan c).queue with
    | [] => ⟨[], [], s⟩
    | q :: _ =>
      if s.sizeOk c q.owner then ⟨[.offer (cs.filter (· != c))], [], s.kickTest ex c⟩
      else
        let s1 := s.leaveQueue ex c q.owner
        match q.owner with
        | .order p tag => ⟨[.finish p tag .oversize, .offer cs], [], s1⟩
        | .reflex x => ⟨[.offer cs], [], s1.dropRequest x .oversize⟩

/-- A pending entry arrives at its channel queue: it ends at an OFFLINE or FAULTED channel, and joins
the queue of any other (R35). -/
def arrive (ex : Bool) (p : Port) (tag : Byte) (s : State) : WorkResult :=
  match s.entry p tag with
  | none => ⟨[], [], s⟩
  | some e =>
    let c := e.order.channel
    match (s.chan c).phase with
    | .offline => ⟨[.finish p tag .channelOffline], [], s⟩
    | .faulted => ⟨[.finish p tag .channelFault], [], s⟩
    | _ =>
      let a := (s.chan c).arrivals
      let s1 := s.modEntry p tag fun e => { e.moveTo .queued with arrival := some a }
      let s2 := s1.modChan c fun ch => { ch with arrivals := a + 1 }
      enqueue ex c { owner := .order p tag, priority := e.order.priority, arrival := a } s2

/-- An entry is ready for its channel queue: it arrives if its due time is absent or reached, and
enters SCHEDULED if it is not (R11). -/
def ready (p : Port) (tag : Byte) (s : State) : WorkResult :=
  match s.entry p tag with
  | none => ⟨[], [], s⟩
  | some e =>
    match e.order.due with
    | none => ⟨[.arrive p tag], [], s⟩
    | some due =>
      if reached s.time due then ⟨[.arrive p tag], [], s⟩
      else
        ⟨[], [], s.modEntry p tag (·.moveTo (.scheduled (s.now + (due - s.time).toNat)))⟩

/-! ## The end of an order -/

/-- Whether a status is a good outcome of an order (R94). -/
def EndStatus.good : EndStatus → Bool
  | .done => true
  | .released => true
  | .cancelled => false
  | .overtime => false
  | .channelFault => false
  | .channelOffline => false
  | .chainBroken => false
  | .oversize => false
  | .modeAbort => false
  | .alarmAbort => false

/-- The completion record of an entry that ends (R93). -/
def Entry.record (e : Entry) (status : EndStatus) (time : TableTime) : Completion where
  tag := e.order.tag
  channel := e.order.channel
  kind := e.order.kind
  status := status
  steps := e.steps
  firstKick := e.firstKick
  endTime := time
  heatWaited := e.heatWaited
  railWaited := e.railWaited
  folded := e.folded

/-- The chain tail after the end of the order with a tag (R102). -/
def Tail.atEnd (t : Tail) (tag : Byte) (good : Bool) : Tail :=
  if t.entry == some tag then ⟨none, if good then .good else .bad⟩ else t

/-- Whether a record may enter a port's completion queue: there is room and no record is held
(R95). -/
def PortState.recordEnters (ps : PortState) : Bool :=
  ps.completions.length < Config.completionSize && ps.held.isEmpty

/-- The chain tail is set, and the completion unit frees a quiet order's entry, lets the record into
the queue and frees the entry, or holds the record (R90, R95, R98, R102). -/
def State.conclude (s : State) (e : Entry) (status : EndStatus) : State :=
  let p := e.port
  let tag := e.order.tag
  let s1 := s.modPort p fun ps => { ps with tail := ps.tail.atEnd tag status.good }
  if e.order.quiet then s1.freeEntry p tag
  else
    let record := e.record status s.time
    if (s1.port p).recordEnters then
      (s1.modPort p fun ps => { ps with completions := ps.completions ++ [record] }).freeEntry p tag
    else
      (s1.modPort p fun ps => { ps with held := ps.held ++ [record] }).modEntry p tag fun e =>
        { e with stage := .doneHeld }

/-- Whether an entry is the follower of a port's entry (R101). -/
def Entry.follows (e : Entry) (p : Port) (tag : Byte) : Bool :=
  e.port == p && e.stage == .following tag

/-- What the end of an order does to its follower: released on a good outcome, ended CHAIN_BROKEN on a
bad one (R102). -/
def State.followerWork (s : State) (p : Port) (tag : Byte) (good : Bool) : List Work :=
  match s.table.find? (·.follows p tag) with
  | none => []
  | some f => if good then [.ready p f.order.tag] else [.finish p f.order.tag .chainBroken]

/-- An order ends: it leaves the place it stood in, its chain tail takes the outcome and its record is made,
its follower is released or broken, then the next member of its queue is offered, and its port's takes follow
(R90, R96, R102). Its port's take stands behind those of the ends before it: where one event ends orders of
several ports, which port takes first the spec leaves open (R29, R79, R95, R96). DESIGN CHOICE, unsafe
(assumption 31). A follower that breaks has its record next after its predecessor's, before any end that the
offer makes. DEDUCED (assumption 9). -/
def finish (ex : Bool) (p : Port) (tag : Byte) (status : EndStatus) (s : State) : WorkResult :=
  match s.liveEntry p tag with
  | none => ⟨[], [], s⟩
  | some e =>
    let c := e.order.channel
    let offers := if (s.chan c).isTestingFront (.order p tag) then [Work.offer [c]] else []
    let s1 := s.leaveQueue ex c (.order p tag)
    let s2 := s1.conclude e status
    ⟨s2.followerWork p tag status.good ++ offers, [.takes p], s2⟩

/-! ## The take -/

/-- The status of a mark (R78, R94). -/
def Mark.status : Mark → EndStatus
  | .cancelled => .cancelled
  | .modeAbort => .modeAbort
  | .alarmAbort => .alarmAbort

/-- The pending entry of an order at its take (R83). -/
def Entry.taken (p : Port) (o : Order) (stage : Stage) : Entry where
  port := p
  order := o
  stage := stage
  steps := 0
  arrival := none
  firstKick := none
  lastCause := none
  stopAfterStep := false
  heatWaited := false
  railWaited := false
  folded := false

/-- How a taken order is handled: the state of its entry and what follows (R80, R101). -/
def takeOutcome (p : Port) (slot : Slot) (tail : Tail) : Stage × List Work :=
  let tag := slot.order.tag
  match slot.mark with
  | some m => (.queued, [.finish p tag m.status])
  | none =>
    if slot.order.follow then
      match tail.outcome, tail.entry with
      | .bad, _ => (.queued, [.finish p tag .chainBroken])
      | .live, some predecessor => (.following predecessor, [])
      | .live, none => (.queued, [.ready p tag])
      | .good, _ => (.queued, [.ready p tag])
    else (.queued, [.ready p tag])

/-- The order at the head of a port's ring is taken into the pending table, while the port is below
its quota; the taken order becomes the chain tail (R77, R79, R80, R101). The port's next take comes behind the
other takes that wait, those of other ports among them. DESIGN CHOICE, unsafe (assumption 31). -/
def takeHead (p : Port) (s : State) : WorkResult :=
  let ps := s.port p
  match ps.ring.slots with
  | [] => ⟨[], [], s⟩
  | slot :: rest =>
    if (s.entriesOf p).length < Config.quota then
      let (stage, work) := takeOutcome p slot ps.tail
      let s1 := s.modPort p fun ps =>
        { ps with
          ring := ⟨(ps.ring.head + 1) % Config.ringSize, rest⟩
          tail := ⟨some slot.order.tag, .live⟩ }
      ⟨work, [.takes p], { s1 with table := s1.table ++ [Entry.taken p slot.order stage] }⟩
    else ⟨[], [], s⟩

/-! ## Doing the work -/

/-- One part of an event. -/
def Work.run (ex : Bool) (w : Work) (s : State) : WorkResult :=
  match w with
  | .offer cs => Machine.offer ex cs s
  | .finish p tag status => Machine.finish ex p tag status s
  | .ready p tag => Machine.ready p tag s
  | .arrive p tag => Machine.arrive ex p tag s
  | .takes p => takeHead p s

/-- The weight of a part in the bound of the work. -/
def Work.weight : Work → Nat
  | .offer cs => cs.length + 1
  | .finish _ _ _ => 1
  | .ready _ _ => 7
  | .arrive _ _ => 6
  | .takes _ => 1

/-- The weight of all parts still to be done. -/
def workWeight (ws : List Work) : Nat := (ws.map Work.weight).sum

/-- The orders held in the three rings. -/
def State.ringOrders (s : State) : Nat :=
  s.ports.p0.ring.slots.length + s.ports.p1.ring.slots.length + s.ports.p2.ring.slots.length

/-- The members of all channel queues. -/
def State.queued (s : State) : Nat := (s.channels.toList.map fun ch => ch.queue.length).sum

/-- The pending entries whose orders have not ended. -/
def State.liveCount (s : State) : Nat := (s.table.filter Entry.live).length

/-- A bound on the number of parts an event can still have: every part lowers it. -/
def workBound (ws : List Work) (s : State) : Nat :=
  100 * s.ringOrders + 12 * s.liveCount + 3 * s.queued + workWeight ws

/-- The parts of an event done from the front of the list, at most n of them. What a part leads to next is done
whole before the parts that wait, so that a take is complete before the next (R79); takes come last, in the order
in which they came about, whatever their ports. DESIGN CHOICE between ports, unsafe (assumption 31). -/
def doWork (ex : Bool) : Nat → List Work → State → State
  | 0, _, s => s
  | _ + 1, [], s => s
  | n + 1, w :: ws, s =>
    let r := w.run ex s
    doWork ex n (r.next ++ ws ++ r.last) r.state

/-- All the parts of an event, and all they lead to. -/
def State.doAll (s : State) (ex : Bool) (ws : List Work) : State := doWork ex (workBound ws s) ws s

end Sys2Proof.Machine
end

