-- ==== Sys2Proof/Machine/Pulses.lean ====
section
/-!
DEFINITION. The phases of a pulse in the channel table (02_coil_channels.md R22 to R31): its kick end,
sense sample, hold, fold, max-on, end and recycle, what its owner is told, and the short check.
-/

namespace Sys2Proof.Machine

/-! ## Reading a pulse -/

/-- Whether a channel's pulse has an owner and is live (R26). -/
def Channel.runs (ch : Channel) (o : Owner) : Bool :=
  ch.phase.isLive && ch.pulse.any fun pu => pu.owned && pu.owner == o

/-- Whether the kick-end interval has expired: K ticks after the kick start (R23). -/
def kickEndDue (now : Nat) (ch : Channel) : Bool :=
  ch.phase == .kick && ch.pulse.any fun pu => pu.start + pu.kickLength ≤ now

/-- Whether the sense-delay interval has expired with the sample still to come (R28). -/
def senseDelayDue (now : Nat) (ch : Channel) : Bool :=
  ch.phase == .kick && ch.pulse.any fun pu =>
    pu.openCheck == .pending && pu.start + ch.profile.senseDelay ≤ now

/-- Whether the max-on interval has expired (R25). -/
def maxOnDue (now : Nat) (ch : Channel) : Bool :=
  ch.phase.isLive && ch.pulse.any fun pu => pu.start + ch.profile.maxOn ≤ now

/-- Whether the fold interval has expired (R51). -/
def foldDue (s : State) (ch : Channel) : Bool :=
  ch.phase == .hold && ch.pulse.any fun pu => s.expired pu.foldAt

/-- Whether the recycle interval has expired (R27). -/
def recycleDue (s : State) (ch : Channel) : Bool :=
  ch.phase == .recycle && ch.pulse.any fun pu => s.expired pu.recycleAt

/-- Whether the cooling wait of the testing front has expired (R47). -/
def coolingDue (now : Nat) (ch : Channel) : Bool :=
  ch.phase == .idle && !ch.queue.isEmpty &&
    match ch.front with
    | .heatWait expiry => expiry ≤ now
    | .channelWait => false
    | .admission => false

/-- The state with a channel's pulse record changed. -/
def State.modPulse (s : State) (c : Chan) (f : Pulse → Pulse) : State :=
  s.modChan c fun ch => { ch with pulse := ch.pulse.map f }

/-- Whether an owner is the order of a TRAIN in the pending table. -/
def State.isTrain (s : State) : Owner → Bool
  | .order p tag => (s.entry p tag).any fun e => e.order.kind == .train
  | .reflex _ => false

/-! ## The end of a pulse -/

/-- The status that the cause of a pulse end gives a PULSE or HOLD order (R94). -/
def Cause.status : Cause → EndStatus
  | .complete => .done
  | .release => .released
  | .overtime => .overtime
  | .openCoil => .channelFault
  | .abort => .modeAbort

/-- A pulse stops: its channel enters RECYCLE with the pulse's recycle length, the gate turns off, and
the intervals and the open check of the pulse are abandoned (R25, R26, R28). -/
def State.stopPulse (s : State) (c : Chan) (latch : Option FaultKind) : State :=
  (s.setPhase c .recycle).modPulse c fun pu =>
    { pu with
      latched := (latch.map fun k => (k, s.now)).or pu.latched
      openCheck :=
        if pu.openCheck == .pending then (if latch == some .openCoil then .made else .none)
        else pu.openCheck
      foldAt := none
      recycleAt := some (s.now + pu.recycleLength) }

/-- The owner is told of the end of its pulse: a PULSE or HOLD order ends and is no longer the owner,
a TRAIN keeps the cause, a reflex entry writes it in its report (R15, R87, R88, R123). -/
def State.tellPulseEnd (s : State) (c : Chan) (cause : Cause) : List Work × State :=
  match (s.chan c).pulse with
  | none => ([], s)
  | some pu =>
    if pu.owned then
      match pu.owner with
      | .order p tag =>
        let s1 := s.modEntry p tag fun e => { e with lastCause := some cause }
        if s.isTrain pu.owner then ([], s1)
        else ([.finish p tag cause.status], s1.modPulse c fun pu => { pu with owned := false })
      | .reflex x => ([], s.reflexPulseEnd x cause)
    else ([], s)

/-! ## The end of the recycle -/

/-- A short check starts on a watched channel whose SENSE is high while the rail is ON (R31). -/
def State.startShort (s : State) (c : Chan) : State :=
  if s.railOn && s.pins.sense[c] && (s.chan c).phase.isWatched then
    s.modChan c fun ch => { ch with shortAt := some (s.now + Config.shortTicks) }
  else s

/-- What a TRAIN does at the recycle expiry after a step: it ends, or it returns to its channel queue
at its original arrival position (R89). -/
def State.trainStep (s : State) (c : Chan) (e : Entry) (faulted : Bool) : List Work × State :=
  let p := e.port
  let tag := e.order.tag
  if faulted then ([.finish p tag .channelFault], s)
  else if e.lastCause == some .overtime then ([.finish p tag .overtime], s)
  else if e.stopAfterStep then ([.finish p tag .cancelled], s)
  else if e.order.count ≤ e.steps then ([.finish p tag .done], s)
  else
    let q : QueueMember :=
      { owner := .order p tag
        priority := e.order.priority
        arrival := e.arrival.getD (s.chan c).arrivals }
    ([], (s.modEntry p tag (·.moveTo .queued)).modChan c fun ch =>
      { ch with queue := insertQueue q ch.queue })

/-- The owner, if it is still present, is told of the recycle end and of the state entered (R27). -/
def State.tellRecycleEnd (s : State) (c : Chan) (pu : Pulse) (faulted : Bool) : List Work × State :=
  if pu.owned then
    match pu.owner with
    | .order p tag =>
      match s.liveEntry p tag with
      | some e => s.trainStep c e faulted
      | none => ([], s)
    | .reflex x => ([], s.reflexRecycleEnd x)
  else ([], s)

/-- Every reflex request in a channel's queue is withdrawn by its channel (R20, R29, R121). -/
def State.withdrawRequests (s : State) (c : Chan) (cause : DropCause) : State :=
  (s.chan c).queue.foldl
    (fun s q =>
      match q.owner with
      | .order _ _ => s
      | .reflex x => s.dropRequest x cause)
    (s.modChan c fun ch =>
      { ch with
        queue := ch.queue.filter fun q =>
          match q.owner with
          | .order _ _ => true
          | .reflex _ => false })

/-- The ends of every port order in a channel's queue, in the order of their takes (R20, R29, R96). Among orders of
different ports the spec gives no order (R96); the model's, that of the pending table, decides which port then
takes first. DESIGN CHOICE, unsafe (assumption 31). -/
def State.endQueued (s : State) (c : Chan) (status : EndStatus) : List Work :=
  (s.table.filter fun e =>
      (s.chan c).queue.any fun q => q.owner == .order e.port e.order.tag).map
    fun e => .finish e.port e.order.tag status

/-- The recycle expiry of a channel: the pulse record is removed, the channel becomes IDLE or, with a
latched fault, FAULTED with its fault record, its queue ended and the CHANNEL_FAULT edges set; its
owner is told (R27, R29). The parts left are the ends this makes; the offer of the front is not among
them. -/
def State.recycleOver (s : State) (c : Chan) : List Work × State :=
  match (s.chan c).pulse with
  | none => ([], s)
  | some pu =>
    match pu.latched with
    | none =>
      let s1 := (s.setPhase c .idle).modChan c fun ch => { ch with pulse := none }
      (s1.startShort c).tellRecycleEnd c pu false
    | some (kind, moment) =>
      let s1 := (s.setPhase c .faulted).modChan c fun ch =>
        { ch with
          pulse := none
          fault := some { kind := kind, time := stampOf moment, source := pu.owner } }
      let (ends, s2) := (s1.startShort c).tellRecycleEnd c pu true
      let s3 := s2.withdrawRequests c .channelFault
      (ends ++ s3.endQueued c .channelFault, s3.setFaultEdges)

/-- The recycle expiry with all it leads to: the ends, with the takes they allow, and then the offer of
the front (R27, R29, R33, R89, R90). -/
def State.recycleEnd (s : State) (c : Chan) : State :=
  let (ends, s1) := s.recycleOver c
  (s1.doAll true ends).doAll true [.offer [c]]

/-- The end of a live pulse with all it leads to: the fall of the units in use and its examination,
what the owner is told, and a recycle of length 0 in the same event (R15, R27, R58, R59). The end of the order that
owned the pulse and the takes it allows are done whole before such a recycle is over, so that with a latched fault
the orders that end at those takes end before the queue's (R96). DESIGN CHOICE, unsafe (assumption 32). -/
def State.endPulse (s : State) (c : Chan) (cause : Cause) (latch : Option FaultKind) : State :=
  let falls := 0 < (s.chan c).draw
  let length := ((s.chan c).pulse.map (·.recycleLength)).getD 0
  let s1 := (s.stopPulse c latch).examineIf falls
  let (ends, s2) := s1.tellPulseEnd c cause
  let s3 := s2.doAll true ends
  if length = 0 then s3.recycleEnd c else s3

/-! ## The events of a pulse -/

/-- The open check's sample: a low SENSE latches OPEN and ends the pulse, a high one passes (R28). -/
def State.sampleSense (s : State) (c : Chan) : State :=
  if s.pins.sense[c] then s.modPulse c fun pu => { pu with openCheck := .made }
  else s.endPulse c .openCoil (some .openCoil)

/-- The channel moves from HOLD to FOLD and the owner is told; the fall is examined (R24, R51, R58). -/
def State.foldPulse (s : State) (c : Chan) : State :=
  let left := (s.chan c).draw
  let s1 := (s.setPhase c .fold).modPulse c fun pu => { pu with foldAt := none }
  let s2 := match (s.chan c).pulse with
    | some pu => if pu.owned then s1.tellFold pu.owner else s1
    | none => s1
  s2.examineIf ((s2.chan c).draw < left)

/-- A pulse enters HOLD: the fold time is computed from the heat it finds, and the fold interval
starts; a fold time of 0 folds in the same event, as one change of the units (R23, R50, R57, R59). -/
def State.enterHold (s : State) (c : Chan) : State :=
  let left := (s.chan c).draw
  let s1 := s.setPhase c .hold
  let ch := s1.chan c
  match ch.profile.foldTime ch.heat with
  | none => s1.examineIf (ch.draw < left)
  | some 0 =>
    let s2 := s1.setPhase c .fold
    let s3 := match ch.pulse with
      | some pu => if pu.owned then s2.tellFold pu.owner else s2
      | none => s2
    s3.examineIf ((s3.chan c).draw < left)
  | some t =>
    (s1.modPulse c fun pu => { pu with foldAt := some (s.now + t) }).examineIf (ch.draw < left)

/-- The kick end of a pulse whose sample, if any, has been made: HOLD for a hold pulse that is not
released and has a hold duty, RECYCLE in every other case (R23). -/
def State.leaveKick (s : State) (c : Chan) : State :=
  match (s.chan c).pulse with
  | none => s
  | some pu =>
    match pu.kind with
    | .plain => s.endPulse c .complete none
    | .hold =>
      if pu.released then s.endPulse c .release none
      else if (s.chan c).profile.holdDuty = 0 then s.endPulse c .complete none
      else s.enterHold c

/-- The kick-end expiry: an open check still pending is made first (R23, R28). -/
def State.kickEnd (s : State) (c : Chan) : State :=
  match (s.chan c).pulse with
  | none => s
  | some pu =>
    if pu.openCheck == .pending then
      if s.pins.sense[c] then (s.modPulse c fun pu => { pu with openCheck := .made }).leaveKick c
      else s.endPulse c .openCoil (some .openCoil)
    else s.leaveKick c

/-- The max-on expiry: the pulse ends OVERTIME, with a fault latched if the profile says so (R25). -/
def State.maxOn (s : State) (c : Chan) : State :=
  s.endPulse c .overtime (if (s.chan c).profile.overtimeLatches then some .overtime else none)

/-! ## The events, each taken only when it is due -/

/-- KICK_END_EXPIRY (R23). -/
def State.takeKickEnd (s : State) (c : Chan) : State :=
  if kickEndDue s.now (s.chan c) then s.kickEnd c else s

/-- SENSE_DELAY_EXPIRY (R28). -/
def State.takeSenseDelay (s : State) (c : Chan) : State :=
  if senseDelayDue s.now (s.chan c) then s.sampleSense c else s

/-- MAX_ON_EXPIRY (R25). -/
def State.takeMaxOn (s : State) (c : Chan) : State :=
  if maxOnDue s.now (s.chan c) then s.maxOn c else s

/-- FOLD_EXPIRY (R51). -/
def State.takeFold (s : State) (c : Chan) : State :=
  if foldDue s (s.chan c) then s.foldPulse c else s

/-- RECYCLE_EXPIRY (R27). -/
def State.takeRecycle (s : State) (c : Chan) : State :=
  if recycleDue s (s.chan c) then s.recycleEnd c else s

/-- COOLING_EXPIRY: the kick test again on the same front; no size test precedes it (R47, R68). -/
def State.takeCooling (s : State) (c : Chan) : State :=
  if coolingDue s.now (s.chan c) then s.kickTest true c else s

/-- Whether an entry's due-time wait has expired (R12). -/
def State.dueTimeDue (s : State) (p : Port) (tag : Byte) : Bool :=
  (s.entry p tag).any fun e =>
    match e.stage with
    | .scheduled expiry => expiry ≤ s.now
    | .following _ => false
    | .queued => false
    | .running => false
    | .doneHeld => false

/-- DUE_TIME_EXPIRY: the entry arrives at its channel queue (R12). -/
def State.takeDueTime (s : State) (p : Port) (tag : Byte) : State :=
  if s.dueTimeDue p tag then s.doAll true [.arrive p tag] else s

end Sys2Proof.Machine
end

