-- ==== Sys2Proof/Machine/Modes.lean ====
section
/-!
DEFINITION. The mode controller (08_table_modes_the_coil_rail_and_alarms.md): changes of table mode with
their aborts, the reflex table's answer to them (07 R125), the coil rail, and table alarms.
-/

namespace Sys2Proof.Machine

/-! ## Ends inside a mode change or a port reset -/

/-- A live pulse ends inside a mode change or a port reset: its channel recycles, its owner is told,
and a recycle of length 0 is over at once. No examination and no offer is made here (R72, R130). -/
def State.cutPulse (s : State) (c : Chan) (tell : State → State) : State :=
  let length := ((s.chan c).pulse.map (·.recycleLength)).getD 0
  let s1 := tell (s.stopPulse c none)
  if length = 0 then
    let (ends, s2) := s1.recycleOver c
    s2.doAll false ends
  else s1

/-- The order that owned an aborted pulse keeps the cause as its last step cause (R87, R88). -/
def State.tellAbort (s : State) (c : Chan) : State :=
  match (s.chan c).pulse.map Pulse.owner with
  | some (Owner.order p tag) => s.modEntry p tag fun e => { e with lastCause := some .abort }
  | some (Owner.reflex _) => s
  | none => s

/-- A port order's pulse is cut with cause ABORT and has no owner from then on (R26, R87, R130). -/
def State.abortPulse (s : State) (c : Chan) : State :=
  s.cutPulse c fun s => (s.tellAbort c).modPulse c fun pu => { pu with owned := false }

/-- A reflex entry's pulse is cut with a cause (R125, R131). -/
def State.cutReflexPulse (s : State) (c : Chan) (x : ReflexNo) (cause : Cause) : State :=
  s.cutPulse c fun s => s.reflexPulseEnd x cause

/-- The pulse record of a recycle loses its owner (R88, R92). -/
def State.disown (s : State) (c : Chan) (o : Owner) : State :=
  s.modPulse c fun pu => if pu.owner == o then { pu with owned := false } else pu

/-! ## The aborts of a mode change -/

/-- A live order of an aborted port ends with the status of the change, wherever it stands; its
follower, which the change ends as well, is left to it (R103, R130). -/
def State.abortEntry (status : EndStatus) (p : Port) (tag : Byte) (s : State) : State :=
  match s.liveEntry p tag with
  | none => s
  | some e =>
    let c := e.order.channel
    let o := Owner.order p tag
    let s1 := if (s.chan c).runs o then s.abortPulse c
      else (s.disown c o).leaveQueue false c o
    s1.conclude e status

/-- Every live order of a port ends, in the order of the takes (R96, R130). -/
def State.abortPort (status : EndStatus) (s : State) (p : Port) : State :=
  ((s.entriesOf p).filter Entry.live).foldl
    (fun s e => s.abortEntry status p e.order.tag) s

/-- A mark set on every order of a ring; a slot that carries a mark keeps it (R78, R129). -/
def markSlots (m : Mark) (slots : List Slot) : List Slot :=
  slots.map fun slot => { slot with mark := slot.mark.or (some m) }

/-- The ring orders of a port marked (R129). -/
def State.markRing (m : Mark) (s : State) (p : Port) : State :=
  s.modPort p fun ps => { ps with ring := { ps.ring with slots := markSlots m ps.ring.slots } }

/-- The ports whose orders a mode does not allow (R129). -/
def abortedPorts (mode : Mode) : List Port := Port.all.filter fun p => !modeAllows mode p

/-- The mark of a change into a mode (R129). -/
def abortMark : Mode → Mark
  | .alarm => .alarmAbort
  | .idle => .modeAbort
  | .attract => .modeAbort
  | .game => .modeAbort
  | .tilt => .modeAbort
  | .service => .modeAbort

/-! ## The reflex table's answer -/

/-- What a change into a mode does to a live reflex pulse: aborted on entry to ALARM, released on entry
to TILT or IDLE, and a FLIP pulse released when its entry stops being armed (R125, R131). -/
def Reflex.cutCause (r : Reflex) (mode : Mode) : Option Cause :=
  match mode with
  | .alarm => some .abort
  | .tilt => some .release
  | .idle => some .release
  | .attract => if r.action == .flip && !r.isArmed mode then some .release else none
  | .game => if r.action == .flip && !r.isArmed mode then some .release else none
  | .service => if r.action == .flip && !r.isArmed mode then some .release else none

/-- A reflex entry told of the new mode (R119, R125, R131). -/
def State.reflexModeChange (mode : Mode) (s : State) (x : ReflexNo) : State :=
  let r := s.reflexAt x
  match r.state with
  | .disarmed => s.modReflex x fun r => { r with state := r.restState mode }
  | .armed => s.modReflex x fun r => { r with state := r.restState mode }
  | .spent => if r.isArmed mode then s else s.modReflex x fun r => { r with state := .disarmed }
  | .waiting =>
    if r.isArmed mode then s
    else
      let s1 := match channelOf r.channel with
        | some c => s.leaveQueue false c (.reflex x)
        | none => s
      s1.modReflex x fun r => { r with state := .disarmed }
  | .active =>
    match channelOf r.channel, r.cutCause mode with
    | some c, some cause =>
      if (s.chan c).runs (.reflex x) then s.cutReflexPulse c x cause else s
    | _, _ => s

/-! ## The rail -/

/-- The short checks whose expiry falls on the present value (R139). -/
def State.dueShorts (s : State) : List Chan :=
  (allFin 24).filter fun c => s.expired (s.chan c).shortAt

/-- The rail turns OFF: RAILEN is released, its intervals and every short check are abandoned. On
entry to ALARM the checks that expire at this value may still be taken (R134, R137, R139). -/
def State.railOff (s : State) (mode : Mode) : State :=
  let late := mode == .alarm && s.railOn
  { s with
    channels := mapTable s.channels fun ch => { ch with shortAt := none }
    control :=
      { s.control with
        rail := .off
        railLossAt := none
        lateShorts := if late then s.dueShorts else []
        lateRailLoss := late && s.expired s.control.railLossAt } }

/-- The rail after a change of mode (R134). -/
def State.railFor (s : State) (left entered : Mode) : State :=
  match entered with
  | .idle => s.railOff .idle
  | .alarm => s.railOff .alarm
  | _ =>
    match left with
    | .idle => { s with control := { s.control with rail := .settling (s.now + Config.settleTicks) } }
    | _ => s

/-! ## The change of mode -/

/-- A change that leaves the rail OFF ends every live pulse in its event (R125, R132, R137). The ends of the
live orders and the reflex table's answer have ended every pulse with a present owner; a live pulse that has
none is cut here with cause ABORT. -/
def State.cutLive (s : State) : State :=
  if s.control.rail == .off then
    (allFin 24).foldl (fun s c => if (s.chan c).phase.isLive then s.abortPulse c else s) s
  else s

/-- The owners that joined the admission list in this event and stand in it after the examination are
told that they waited for rail (R64, R130). -/
def State.tellJoined (s : State) (since : Nat) : State :=
  s.tellRailWaits (s.arbiter.list.filter fun m => since ≤ m.join)

/-- The channel queues that lost their testing front offer their next member, and then the admission
list is examined once (R34, R130). Orders that end OVERSIZE at these offers end oldest take first (R96,
`State.nextOffer`). Which of several members joins first, and so takes the earlier join position, the spec leaves
open (R60: either order); the model goes from C0 to C23. DESIGN CHOICE, unsafe (assumption 29). -/
def State.offerAndExamine (s : State) (since : Nat) : State :=
  ((s.doAll false [.offer (allFin 24)]).examine).tellJoined since

/-- A change of table mode: the rail, the marks, the aborts and the takes they lead to, the reflex
table, the offers and the one examination, the TEST layer, and the MODE_CHANGE edges (R129 to R132,
R134, R145; assumption 24). -/
def State.changeMode (s : State) (mode : Mode) : State :=
  let left := s.control.mode
  let since := s.arbiter.joins
  let mark := abortMark mode
  let ports := abortedPorts mode
  let s1 := { s with control := { s.control with mode := mode } }.railFor left mode
  let s2 := ports.foldl (State.markRing mark) s1
  let s3 := ports.foldl (State.abortPort mark.status) s2
  let s4 := s3.doAll false (ports.map Work.takes)
  let s5 := (allFin 16).foldl (State.reflexModeChange mode) s4
  let s6 := s5.cutLive.offerAndExamine since
  let s7 :=
    if left == .service || mode == .service then
      s6.redriveAll fun l => (s6.lamp l).testCell.isSome
    else s6
  s7.setModeEdges

/-! ## Alarms -/

/-- A cause that comes while the mode is ALARM is the record's later cause, or counts (R139). -/
def AlarmRecord.addLater (a : AlarmRecord) (cause : AlarmCause) : AlarmRecord :=
  match a.later with
  | none => { a with later := some cause }
  | some _ => { a with laterCount := min 255 (a.laterCount + 1) }

/-- A further cause in ALARM (R139). -/
def State.laterCause (s : State) (cause : AlarmCause) : State :=
  { s with control := { s.control with alarm := s.control.alarm.map (·.addLater cause) } }

/-- A table alarm is raised: a fresh record and the entry to ALARM, or a later cause (R138, R139). -/
def State.raiseAlarm (s : State) (cause : AlarmCause) : State :=
  if s.control.mode == .alarm then s.laterCause cause
  else
    { s with
      control :=
        { s.control with
          alarm := some { cause := cause, time := s.time, later := none, laterCount := 0 } } }.changeMode
      .alarm

/-- SHORT_CHECK_EXPIRY: a table alarm with cause SHORT (R31, R138, R139). -/
def State.takeShortCheck (s : State) (c : Chan) : State :=
  if s.expired (s.chan c).shortAt then
    (s.modChan c fun ch => { ch with shortAt := none }).raiseAlarm (.short c)
  else if s.control.lateShorts.contains c then
    { s with
      control := { s.control with lateShorts := s.control.lateShorts.filter (· != c) } }.laterCause
      (.short c)
  else s

/-- RAIL_LOSS_EXPIRY: a table alarm with cause RAIL_LOST (R136, R138, R139). -/
def State.takeRailLoss (s : State) : State :=
  if s.expired s.control.railLossAt then
    { s with control := { s.control with railLossAt := none } }.raiseAlarm .railLost
  else if s.control.lateRailLoss then
    { s with control := { s.control with lateRailLoss := false } }.laterCause .railLost
  else s

/-- The rail becomes ON: short checks of channels whose SENSE is high start, and the admission list is
examined (R66, R137). -/
def State.railBecomesOn (s : State) : State :=
  ((allFin 24).foldl State.startShort
    { s with control := { s.control with rail := .on } }).examine

/-- Whether the settle interval has expired (R135). -/
def State.settleDue (s : State) : Bool :=
  match s.control.rail with
  | .settling expiry => expiry ≤ s.now
  | .off => false
  | .on => false

/-- SETTLE_EXPIRY: RAILOK is read once (R135). -/
def State.takeSettle (s : State) : State :=
  if s.settleDue then
    if s.pins.railok then s.railBecomesOn else s.raiseAlarm .railNoRise
  else s

/-! ## The monitored inputs -/

/-- SENSE_CHANGE: the short check of a watched channel starts or is abandoned while the rail is ON
(R31). -/
def State.takeSense (s : State) (c : Chan) (high : Bool) : State :=
  let s1 := { s with pins := { s.pins with sense := s.pins.sense.set c high } }
  if high then s1.startShort c
  else
    { s1.modChan c (fun ch => { ch with shortAt := none }) with
      control := { s1.control with lateShorts := s1.control.lateShorts.filter (· != c) } }

/-- RAILOK_CHANGE: the rail-loss interval starts or is abandoned while the rail is ON (R136). -/
def State.takeRailok (s : State) (high : Bool) : State :=
  let s1 := { s with pins := { s.pins with railok := high } }
  if high then { s1 with control := { s1.control with railLossAt := none, lateRailLoss := false } }
  else if s1.railOn then
    { s1 with control := { s1.control with railLossAt := some (s.now + Config.railLossTicks) } }
  else s1

end Sys2Proof.Machine
end

