-- ==== Sys2Proof/Machine/Operands.lean ====
section
/-!
DEFINITION. The fields of frames: numbers as bytes, the enumerated codes and the record layouts of
11_link_ports_and_frame_layouts.md, sections 11.4 and 11.5, and the readings and clamps that the
blocks make of the fields a command carries (R17, R73, R144, R153, R161).
-/

namespace Sys2Proof.Machine

/-! ## Numbers -/

/-- A number in one byte. -/
def byte (n : Nat) : Byte := BitVec.ofNat 8 n

/-- A number in two bytes, most significant first (R169). -/
def bytes2 (n : Nat) : List Byte := [byte (n / 256), byte n]

/-- A number in three bytes, most significant first (R169). -/
def bytes3 (n : Nat) : List Byte := [byte (n / 65536), byte (n / 256), byte n]

/-- A number in four bytes, most significant first (R169). -/
def bytes4 (n : Nat) : List Byte :=
  [byte (n / 16777216), byte (n / 65536), byte (n / 256), byte n]

/-- A table time in four bytes. -/
def timeBytes (t : TableTime) : List Byte := bytes4 t.toNat

/-- A flag in a byte of its own: 00h for no, 01h for yes (11, section 11.4). -/
def flagByte (b : Bool) : Byte := if b then 1 else 0

/-- A flag in one bit of a byte. -/
def flagBit (b : Bool) (bit : Nat) : Nat := if b then 2 ^ bit else 0

/-- The bit set of a table of flags: number n in bit (n mod 8) of byte floor(n / 8) (11, section 11.4). -/
def bitSet (flags : List Bool) : Nat :=
  flags.foldr (fun b acc => (if b then 1 else 0) + 2 * acc) 0

/-- A bit set of four bytes, lowest numbers first. -/
def setBytes4 (n : Nat) : List Byte :=
  [byte n, byte (n / 256), byte (n / 65536), byte (n / 16777216)]

/-! ## Codes (11, section 11.4) -/

/-- The reply statuses (11, section 11.4). -/
inductive Status where
  | ok
  | badFrame
  | unknownCommand
  | badLength
  | notPermitted
  | wrongMode
  | notFound
  | badOrder
  | channelOffline
  | tagInUse
  | ringFull
  | tooLate
  | channelBusy
  | channelWarm
  | profileCannotFire
  | entryBusy
  | notInAlarm
  | shortPresent
  deriving DecidableEq, Repr

/-- The code of a reply status. -/
def Status.code : Status → Byte
  | .ok => 0x00
  | .badFrame => 0x01
  | .unknownCommand => 0x02
  | .badLength => 0x03
  | .notPermitted => 0x04
  | .wrongMode => 0x05
  | .notFound => 0x06
  | .badOrder => 0x07
  | .channelOffline => 0x08
  | .tagInUse => 0x09
  | .ringFull => 0x0A
  | .tooLate => 0x0B
  | .channelBusy => 0x0C
  | .channelWarm => 0x0D
  | .profileCannotFire => 0x0E
  | .entryBusy => 0x0F
  | .notInAlarm => 0x10
  | .shortPresent => 0x11

/-- The table mode a code names (R128: others are not modes). -/
def modeOf (b : Byte) : Option Mode :=
  match b.toNat with
  | 0 => some .idle
  | 1 => some .attract
  | 2 => some .game
  | 3 => some .tilt
  | 4 => some .service
  | 5 => some .alarm
  | _ => none

/-- The kind of an order that a code names (11, section 11.5). -/
def orderKindOf (b : Byte) : Option OrderKind :=
  match b.toNat with
  | 0 => some .pulse
  | 1 => some .train
  | 2 => some .hold
  | _ => none

/-- The reflex action that a code names. -/
def actionOf (b : Byte) : Option Action :=
  match b.toNat with
  | 0 => some .fire
  | 1 => some .flip
  | 2 => some .tilt
  | _ => none

/-- The blink pattern that a code names. -/
def patternOf (b : Byte) : Option Pattern :=
  match b.toNat with
  | 0 => some .steady
  | 1 => some .blinkA
  | 2 => some .blinkB
  | _ => none

/-- The code of an order kind. -/
def OrderKind.code : OrderKind → Byte
  | .pulse => 0
  | .train => 1
  | .hold => 2

/-- The code of a completion status. -/
def EndStatus.code : EndStatus → Byte
  | .done => 0
  | .released => 1
  | .cancelled => 2
  | .overtime => 3
  | .channelFault => 4
  | .channelOffline => 5
  | .chainBroken => 6
  | .oversize => 7
  | .modeAbort => 8
  | .alarmAbort => 9

/-- The code of a channel state. -/
def Phase.code : Phase → Byte
  | .offline => 0
  | .idle => 1
  | .kick => 2
  | .hold => 3
  | .fold => 4
  | .recycle => 5
  | .faulted => 6

/-- The code of a front state. -/
def Front.code : Front → Byte
  | .channelWait => 0
  | .heatWait _ => 1
  | .admission => 2

/-- The code of a rail state. -/
def Rail.code : Rail → Byte
  | .off => 0
  | .settling _ => 1
  | .on => 2

/-- The code of a reflex action. -/
def Action.code : Action → Byte
  | .fire => 0
  | .flip => 1
  | .tilt => 2

/-- The code of a reflex state. -/
def ReflexState.code : ReflexState → Byte
  | .disarmed => 0
  | .armed => 1
  | .waiting => 2
  | .active => 3
  | .spent => 4

/-- The code of an alarm cause. -/
def AlarmCause.code : AlarmCause → Byte
  | .short _ => 0
  | .railLost => 1
  | .railNoRise => 2

/-- The channel of a SHORT, 0 otherwise (11, section 11.5). -/
def AlarmCause.channelByte : AlarmCause → Byte
  | .short c => byte c.val
  | .railLost => 0
  | .railNoRise => 0

/-- The code of a fault kind. -/
def FaultKind.code : FaultKind → Nat
  | .openCoil => 1
  | .overtime => 2

/-- The code of a drop cause. -/
def DropCause.code : DropCause → Byte
  | .oversize => 1
  | .channelOffline => 2
  | .channelFault => 3

/-- The code of an end cause. -/
def Cause.code : Cause → Byte
  | .complete => 1
  | .release => 2
  | .overtime => 3
  | .openCoil => 4
  | .abort => 5

/-- The code of a layer. -/
def Layer.code : Layer → Nat
  | .none => 0
  | .showLayer => 1
  | .rules => 2
  | .test => 3

/-- The code of a pattern. -/
def Pattern.code : Pattern → Nat
  | .steady => 0
  | .blinkA => 1
  | .blinkB => 2

/-- The code of a reflex action on an edge. -/
def ReflexAct.code : ReflexAct → Nat
  | .trigger => 0
  | .release => 1
  | .withdraw => 2
  | .rearm => 3
  | .ignored => 4

/-- An owner in two bytes (11, section 11.4). -/
def Owner.bytes : Owner → List Byte
  | .order p tag => [byte p.number, tag]
  | .reflex x => [byte (16 + x.val), 0]

/-! ## Readings and clamps -/

/-- A carried profile with each field clamped on its own (R17; 02, 2.2). -/
def clampProfile (r : ProfileRecord) : Profile where
  enabled := r.enabled
  overtimeLatches := r.overtimeLatches
  posting := ⟨r.postP0, r.postP1, r.postP2⟩
  kickTime := min 1000 (max 1 r.kickTime.toNat)
  kickDraw := min 64 (max 1 r.kickDraw.toNat)
  holdDuty := min 16 r.holdDuty.toNat
  foldDuty := min 16 r.foldDuty.toNat
  heatFactor := min 16 (max 1 r.heatFactor.toNat)
  cooling := max 1 r.cooling.toNat
  ceiling := max 1 r.ceiling.toNat
  recycle := min 10000 r.recycle.toNat
  maxOn := min 6000000 (max 1 r.maxOn.toNat)
  senseDelay := r.senseDelay.toNat

/-- A priority of 0 is read as 1 (R73). -/
def priorityRead (priority : BitVec 3) : Nat := max 1 priority.toNat

/-- A kick fraction of 0 or above 16 is read as 16 (R73). -/
def fractionRead (fraction : BitVec 5) : Nat :=
  if fraction.toNat = 0 then 16 else min 16 fraction.toNat

/-- The working values of an order record whose channel and kind are known (R73). -/
def workingOrder (r : OrderRecord) (channel : Chan) (kind : OrderKind) : Order where
  tag := r.tag
  channel := channel
  kind := kind
  priority := priorityRead r.priority
  fraction := match kind with
    | .train => 16
    | .pulse => fractionRead r.fraction
    | .hold => fractionRead r.fraction
  count := match kind with
    | .train => r.count.toNat
    | .pulse => 1
    | .hold => 1
  gap := match kind with
    | .train => r.gap.toNat
    | .pulse => 0
    | .hold => 0
  follow := r.follow
  quiet := r.quiet
  due := r.due

/-- A rate above 3 is read as 3 (R144). -/
def rateRead (b : Byte) : Rate := if h : b.toNat < 4 then ⟨b.toNat, h⟩ else 3

/-- The cell a cell write gives: none for a content or pattern that is neither of those named, else the
cell (R144; 11, section 11.4). -/
def cellOf (w : CellWrite) : Option (Option Light) :=
  match w.content.toNat with
  | 0 => some none
  | 1 => (patternOf w.pattern).map fun pattern =>
      some { level := min 15 w.level.toNat, pattern := pattern, rate := rateRead w.rate }
  | _ => none

/-! ## Records (11, section 11.5) -/

/-- The profile body: 17 bytes (11, section 11.4). -/
def Profile.bytes (pr : Profile) : List Byte :=
  byte (flagBit pr.enabled 0 + flagBit pr.overtimeLatches 1 + flagBit pr.posting.p0 2
      + flagBit pr.posting.p1 3 + flagBit pr.posting.p2 4)
    :: bytes2 pr.kickTime
    ++ [byte pr.kickDraw, byte pr.holdDuty, byte pr.foldDuty, byte pr.heatFactor, byte pr.cooling]
    ++ bytes3 pr.ceiling ++ bytes2 pr.recycle ++ bytes3 pr.maxOn ++ [byte pr.senseDelay]

/-- A completion record: 14 bytes. -/
def Completion.bytes (r : Completion) : List Byte :=
  [r.tag, byte r.channel.val, r.kind.code, r.status.code, byte r.steps,
    byte (flagBit r.heatWaited 0 + flagBit r.railWaited 1 + flagBit r.folded 2
      + flagBit r.firstKick.isSome 7)]
    ++ timeBytes (r.firstKick.getD 0) ++ timeBytes r.endTime

/-- A switch event record: 8 bytes. -/
def SwitchEvent.bytes (ev : SwitchEvent) : List Byte :=
  let flags := match ev.reflex with
    | none => 0
    | some part => flagBit part.heatWaited 1 + flagBit part.railWaited 2 + flagBit part.dropped 3 + 128
  let third := match ev.reflex with
    | none => 0
    | some part => 16 * part.entry.val + part.act.code
  [byte ev.switch.val, byte (flagBit ev.close 0 + flags), byte (ev.lostBefore.getD 0), byte third]
    ++ timeBytes ev.time

/-- The ticks left of an interval. -/
def State.ticksLeft (s : State) (interval : Option Nat) : Nat :=
  match interval with
  | some expiry => expiry - s.now
  | none => 0

/-- The pulse items of a READ CHANNEL reply, bytes 6 to 14; 0 when no pulse record is present. -/
def pulseBytes : Option Pulse → List Byte
  | none => .replicate 9 0
  | some pu =>
    pu.owner.bytes
      ++ [byte (flagBit (pu.kind == .hold) 0 + flagBit pu.released 1
          + 16 * ((pu.latched.map fun l => l.1.code).getD 0))]
      ++ bytes2 pu.kickLength ++ timeBytes (stampOf pu.start)

/-- The fault record items of a READ CHANNEL reply, bytes 19 to 25. -/
def faultBytes : Option FaultRecord → List Byte
  | none => .replicate 7 0
  | some f => byte f.kind.code :: timeBytes f.time ++ f.source.bytes

/-- The front items of a READ CHANNEL reply, bytes 27 to 33. -/
def State.frontBytes (s : State) (ch : Channel) : List Byte :=
  match ch.queue with
  | [] => .replicate 7 0
  | q :: _ =>
    let wait := match ch.front with
      | .heatWait expiry => expiry - s.now
      | .channelWait => 0
      | .admission => 0
    q.owner.bytes ++ [ch.front.code] ++ bytes4 wait

/-- The interval of a channel's recycle, in RECYCLE (R37). -/
def Channel.recycleInterval (ch : Channel) : Option Nat :=
  if ch.phase == .recycle then ch.pulse.bind (·.recycleAt) else none

/-- The READ CHANNEL reply body: 36 bytes (R37). -/
def State.channelBytes (s : State) (ch : Channel) : List Byte :=
  [ch.phase.code] ++ bytes3 ch.heat
    ++ [byte ch.draw,
      byte (flagBit ch.pulse.isSome 0 + flagBit ch.recycleInterval.isSome 1
        + flagBit ch.fault.isSome 2 + flagBit (!ch.queue.isEmpty) 3)]
    ++ pulseBytes ch.pulse ++ bytes4 (s.ticksLeft ch.recycleInterval) ++ faultBytes ch.fault
    ++ [byte ch.queue.length] ++ s.frontBytes ch ++ [0, 0]

/-- The READ ALARM reply body: 13 bytes (R141). -/
def State.alarmBytes (s : State) : List Byte :=
  let head (flags : Nat) : List Byte :=
    [byte flags, byte s.control.mode.code, s.control.rail.code, flagByte s.pins.railok]
  match s.control.alarm with
  | none => head 0 ++ .replicate 9 0
  | some a =>
    head (1 + flagBit a.later.isSome 1)
      ++ [a.cause.code, a.cause.channelByte] ++ timeBytes a.time
      ++ (match a.later with
        | none => [0, 0]
        | some l => [l.code, l.channelByte])
      ++ [byte a.laterCount]

/-- The seven written bytes of a reflex entry (11, section 11.5). -/
def Reflex.fieldBytes (r : Reflex) (x : ReflexNo) : List Byte :=
  [byte x.val, byte r.switch.val, flagByte r.openEdge, r.action.code, r.channel,
    byte (flagBit r.inAttract 0 + flagBit r.inGame 1), flagByte r.enabled]

/-- Byte 11 of a READ REFLEX reply: the request's state in WAITING, the channel's state in ACTIVE, 0 in
every other state (R126). -/
def State.reflexPlace (s : State) (x : ReflexNo) : Byte :=
  let r := s.reflexAt x
  match r.state, channelOf r.channel with
  | .waiting, some c =>
    if ((s.chan c).queue.head?.map (·.owner)) == some (.reflex x) then (s.chan c).front.code else 0
  | .active, some c => (s.chan c).phase.code
  | _, _ => 0

/-- The READ REFLEX reply body: 12 bytes (R126). -/
def State.reflexBytes (s : State) (x : ReflexNo) : List Byte :=
  let r := s.reflexAt x
  r.fieldBytes x
    ++ [r.state.code,
      byte (flagBit r.report.heatWaited 0 + flagBit r.report.railWaited 1 + flagBit r.report.folded 2),
      (r.report.drop.map (·.code)).getD 0, (r.report.lastEnd.map (·.code)).getD 0, s.reflexPlace x]

/-- The lamp record of a READ LAMPS reply: 4 bytes (R154). -/
def State.lampBytes (s : State) (l : LampNo) : List Byte :=
  let lamp := s.lamp l
  let staged := s.lampUnit.staging.contains l
  let (layer, pattern, rate, level) : Nat × Nat × Nat × Nat :=
    match lamp.composite s.control.mode with
    | none => (0, 0, 0, 0)
    | some (layer, light) => (layer.code, light.pattern.code, light.rate.val, light.level)
  [byte (layer + 4 * pattern + 16 * rate + flagBit lamp.warm 6 + flagBit lamp.inrush 7),
    byte (level + flagBit staged 4), byte lamp.drive, byte (lampOutput s l)]

/-- A listed member of a READ RAIL reply: 5 bytes (R70). -/
def Member.bytes (m : Member) : List Byte :=
  [byte m.channel.val] ++ m.owner.bytes ++ [byte m.priority, byte m.draw]

/-- The wait cause of the front of the admission list, as its code: NONE, RAIL, LIMIT or OVERSIZE HELD
(R70). -/
def State.waitCause (s : State) : Byte :=
  match s.arbiter.list with
  | [] => 0
  | m :: _ => if s.arbiter.limit m.owner < m.draw then 3 else if s.railOn then 2 else 1

end Sys2Proof.Machine
end

