-- ==== Sys2Proof/Machine/ClockCommands.lean ====
section
/-!
DEFINITION. What a command answers, and the commands of the table clock: READ CLOCK, SET ALARM TIME and
DISARM (01_table_time.md R3, R8, R9).
-/

namespace Sys2Proof.Machine

/-- What a block answers to a command: the status and body of the reply, and the state (R166). -/
structure Answer where
  status : Status
  body : List Byte
  state : State

/-- A refusal: it carries no body and leaves the state as it was. -/
def Answer.refuse (status : Status) (s : State) : Answer := ⟨status, [], s⟩

/-- READ CLOCK: the table time and the sending port's comparator (R3). -/
def answerReadClock (p : Port) (s : State) : Answer :=
  let comparator := (s.port p).comparator
  ⟨.ok, timeBytes s.time ++ timeBytes comparator.value ++ [flagByte comparator.armed], s⟩

/-- SET ALARM TIME: the comparator is written and armed, and CLOCK_ALARM is decided anew (R8, R10). -/
def answerSetAlarmTime (p : Port) (time : TableTime) (s : State) : Answer :=
  ⟨.ok, [], s.modPort p fun ps =>
    { ps with comparator := { value := time, armed := true, alarm := reached s.time time } }⟩

/-- DISARM: the comparator is disarmed and keeps its value (R9). -/
def answerDisarm (p : Port) (s : State) : Answer :=
  ⟨.ok, [], s.modPort p fun ps =>
    { ps with comparator := { ps.comparator with armed := false, alarm := false } }⟩

/-- Whether the clock has come to an armed comparator's value and the condition has not begun (R10). -/
def State.comparatorDue (s : State) (p : Port) : Bool :=
  let comparator := (s.port p).comparator
  comparator.armed && !comparator.alarm && comparator.value == s.time

/-- Whether an armed comparator's value has just become unreached (R10). -/
def State.lapseDue (s : State) (p : Port) : Bool :=
  let comparator := (s.port p).comparator
  comparator.armed && comparator.alarm && (s.time - comparator.value).toNat == 2 ^ 31

/-- COMPARATOR_MATCH: the port's CLOCK_ALARM condition begins (R10). -/
def State.takeComparator (s : State) (p : Port) : State :=
  if s.comparatorDue p then
    s.modPort p fun ps => { ps with comparator := { ps.comparator with alarm := true } }
  else s

/-- COMPARATOR_LAPSE: the condition ends and the comparator stays armed (R10). -/
def State.takeLapse (s : State) (p : Port) : State :=
  if s.lapseDue p then
    s.modPort p fun ps => { ps with comparator := { ps.comparator with alarm := false } }
  else s

end Sys2Proof.Machine
end

