-- ==== Sys2Proof/Machine/ChannelCommands.lean ====
section
/-!
DEFINITION. The commands of the channel table and the arbiter: WRITE PROFILE, READ PROFILE,
READ CHANNEL, CLEAR FAULT, WRITE RAIL and READ RAIL (02 R18 to R21, R30, R37; 04 R55, R70).
-/

namespace Sys2Proof.Machine

/-- The effect of a disabling write on an IDLE channel: it is OFFLINE and its queue is emptied (R20). -/
def State.disable (s : State) (c : Chan) : State :=
  let s1 := ((s.setPhase c .offline).modChan c fun ch => { ch with front := .channelWait }).depart true c
  let s2 := s1.withdrawRequests c .channelOffline
  s2.doAll true (s2.endQueued c .channelOffline)

/-- The effect of an enabling write on an IDLE channel: its front returns to CHANNEL_WAIT and is offered
again (R19, R48, R61). -/
def State.reoffer (s : State) (c : Chan) : State :=
  ((s.modChan c fun ch => { ch with front := .channelWait }).depart true c).doAll true [.offer [c]]

/-- An accepted profile write: heat is brought up to date under the old record, the record and the
effective fold duty are replaced, and the state follows the enabled field (R19, R20, R52). -/
def State.writeProfile (s : State) (c : Chan) (pr : Profile) : State :=
  let s1 := (s.updateHeat c).modChan c fun ch =>
    { ch with profile := pr, effectiveFold := pr.foldDutyInForce }
  match (s.chan c).phase with
  | .offline => if pr.enabled then s1.setPhase c .idle else s1
  | .idle => if pr.enabled then s1.reoffer c else s1.disable c
  | _ => s1

/-- Whether a channel has a pulse or its recycle (R18, test 4). -/
def Phase.busy : Phase → Bool
  | .kick => true
  | .hold => true
  | .fold => true
  | .recycle => true
  | .offline => false
  | .idle => false
  | .faulted => false

/-- WRITE PROFILE (R17, R18). A command refused at test 5 or 6 has its heat read at the present moment and
stores no update: R42 lists test 5 as an update and R18 leaves the heat as it was; by R43 the two agree at every
later moment. DEDUCED, safe (assumption 30). -/
def answerWriteProfile (p : Port) (channel : Byte) (record : ProfileRecord) (s : State) : Answer :=
  let pr := clampProfile record
  if p = .p1 then .refuse .notPermitted s
  else
    match channelOf channel with
    | none => .refuse .notFound s
    | some c =>
      if !configAllowed s.control.mode p then .refuse .wrongMode s
      else if (s.chan c).phase.busy then .refuse .channelBusy s
      else if pr.ceiling < (s.chan c).heatNow s.now then .refuse .channelWarm s
      else if !pr.canFire then .refuse .profileCannotFire s
      else ⟨.ok, [], s.writeProfile c pr⟩

/-- READ PROFILE (R21). -/
def answerReadProfile (_p : Port) (channel : Byte) (s : State) : Answer :=
  match channelOf channel with
  | none => .refuse .notFound s
  | some c =>
    ⟨.ok, channel :: (s.chan c).profile.bytes ++ [byte (s.chan c).effectiveFold], s⟩

/-- READ CHANNEL: heat is brought up to date for the read (R37). -/
def answerReadChannel (_p : Port) (channel : Byte) (s : State) : Answer :=
  match channelOf channel with
  | none => .refuse .notFound s
  | some c =>
    let s1 := s.updateHeat c
    ⟨.ok, s1.channelBytes (s1.chan c), s1⟩

/-- CLEAR FAULT (R30). -/
def answerClearFault (p : Port) (channel : Byte) (s : State) : Answer :=
  if p = .p1 then .refuse .notPermitted s
  else
    match channelOf channel with
    | none => .refuse .notFound s
    | some c =>
      if (s.chan c).phase == .faulted then
        ⟨.ok, [], (s.setPhase c (if (s.chan c).profile.enabled then .idle else .offline)).modChan c
          fun ch => { ch with fault := none }⟩
      else .refuse .notFound s

/-- WRITE RAIL: the budget and the clamped reserve, then an examination (R55). -/
def answerWriteRail (p : Port) (budget reserve : Byte) (s : State) : Answer :=
  if p = .p1 then .refuse .notPermitted s
  else if !railWriteAllowed s.control.mode p then .refuse .wrongMode s
  else
    let b := budget.toNat
    let v := min reserve.toNat b
    ⟨.ok, [byte b, byte v],
      { s with arbiter := { s.arbiter with budget := b, reserve := v } }.examine⟩

/-- READ RAIL (R70). -/
def answerReadRail (_p : Port) (s : State) : Answer :=
  let a := s.arbiter
  let listed := a.list.take 8
  ⟨.ok,
    [byte a.budget, byte a.reserve, byte a.units, s.control.rail.code, byte a.list.length, s.waitCause,
      byte listed.length] ++ listed.flatMap Member.bytes, s⟩

end Sys2Proof.Machine
end

