-- ==== Sys2Proof/WellFormed.lean ====
section
/-!
DEFINITION. The check that a command is one a frame can carry. The operand types fix every width, so
the one condition left is the number of cell writes of WRITE LAMPS.
Spec: 09_lamp_layers_and_inrush_staging.md R144, 11_link_ports_and_frame_layouts.md R169.
-/

namespace Sys2Proof

/-- WRITE LAMPS carries from 1 to 12 cell writes (R144, R169). -/
def cellWritesOk (writes : List CellWrite) : Bool :=
  1 ≤ writes.length && writes.length ≤ 12

/-- A command whose operands a frame, a pin or a block of the part can carry. -/
def Instr.wellFormed : Instr → Bool
  | .powerOn => true
  | .supplyFall => true
  | .resetnFall => true
  | .resetnRise => true
  | .tableClockAdvance => true
  | .receiveByte _ _ => true
  | .gapExpiry _ => true
  | .replyEnd _ => true
  | .switchRawChange _ _ => true
  | .debounceExpiry _ => true
  | .senseChange _ _ => true
  | .railokChange _ => true
  | .comparatorMatch _ => true
  | .comparatorLapse _ => true
  | .dueTimeExpiry _ _ => true
  | .kickEndExpiry _ => true
  | .senseDelayExpiry _ => true
  | .maxOnExpiry _ => true
  | .foldExpiry _ => true
  | .recycleExpiry _ => true
  | .coolingExpiry _ => true
  | .shortCheckExpiry _ => true
  | .settleExpiry => true
  | .railLossExpiry => true
  | .lampPhaseEvent _ => true
  | .coolDownExpiry _ => true
  | .inrushExpiry _ => true
  | .portReset _ => true
  | .tableReset _ => true
  | .readClock _ => true
  | .setAlarmTime _ _ => true
  | .disarm _ => true
  | .postOrder _ _ => true
  | .cancelOrder _ _ => true
  | .readCompletions _ => true
  | .readRing _ => true
  | .writeProfile _ _ _ => true
  | .readProfile _ _ => true
  | .readChannel _ _ => true
  | .clearFault _ _ => true
  | .writeRail _ _ _ => true
  | .readRail _ => true
  | .setMode _ _ => true
  | .clearAlarm _ => true
  | .readAlarm _ => true
  | .writeSwitchConfig _ _ _ _ _ => true
  | .readSwitches _ => true
  | .subscribe _ _ => true
  | .readSwitchEvents _ => true
  | .writeReflex _ _ _ => true
  | .readReflex _ _ => true
  | .writeLamps _ writes => cellWritesOk writes
  | .writeLampConfig _ _ _ _ => true
  | .readLamps _ _ => true
  | .writeAttention _ _ _ _ => true
  | .takeEvent _ => true

end Sys2Proof
end

