-- ==== Sys2Proof/Machine/LampCommands.lean ====
section
/-!
DEFINITION. The commands of the lamp unit and the attention unit: WRITE LAMPS, WRITE LAMP CONFIG,
READ LAMPS, WRITE ATTENTION and TAKE EVENT (09 R144, R153, R154; 10 R159, R161).
-/

namespace Sys2Proof.Machine

/-! ## Lamps -/

/-- A cell written into the layer of a port: SHOW from P1, RULES from P0, TEST from P2 (R144). -/
def Lamp.writeCell (p : Port) (cell : Option Light) (lamp : Lamp) : Lamp :=
  match p with
  | .p0 => { lamp with rulesCell := cell }
  | .p1 => { lamp with showCell := cell }
  | .p2 => { lamp with testCell := cell }

/-- Cell writes applied in the order they are carried (R144). -/
def applyCells (p : Port) : List (LampNo × Option Light) → State → State
  | [], s => s
  | (l, cell) :: rest, s => applyCells p rest (s.modLamp l (Lamp.writeCell p cell))

/-- The lamp and cell of each write, if every lamp and content is in range (R144). -/
def cellsOf (writes : List CellWrite) : Option (List (LampNo × Option Light)) :=
  writes.mapM fun w =>
    match lampOf w.lamp, cellOf w with
    | some l, some cell => some (l, cell)
    | _, _ => none

/-- Accepted cell writes: all are applied, then the drive of each lamp written is decided in lamp
number order (R144). -/
def State.writeCells (s : State) (p : Port) (cells : List (LampNo × Option Light)) : State :=
  (applyCells p cells s).redriveAll fun l => cells.any fun w => w.1 == l

/-- WRITE LAMPS (R144). A number of writes no body can carry is a bad length (R169). -/
def answerWriteLamps (p : Port) (writes : List CellWrite) (s : State) : Answer :=
  if !cellWritesOk writes then .refuse .badLength s
  else if writes.any fun w => (lampOf w.lamp).isNone then .refuse .notFound s
  else
    match cellsOf writes with
    | none => .refuse .badOrder s
    | some cells => ⟨.ok, [], s.writeCells p cells⟩

/-- The inrush flags written; a staged lamp whose flag is now clear leaves the list, lights and becomes
WARM (R153, step 1). -/
def State.writeInrushFlags (s : State) (flags : BitVec 40) : State :=
  let lamps := tabulate 40 fun l =>
    let lamp := s.lamp l
    let flag := flags.getLsbD l.val
    { lamp with
      inrush := flag
      warm := lamp.warm || (!flag && s.lampUnit.staging.contains l) }
  { s with
    lampUnit :=
      { s.lampUnit with
        lamps := lamps
        staging := s.lampUnit.staging.filter fun l => flags.getLsbD l.val } }

/-- WRITE LAMP CONFIG: flags, then inrush time, then slot limit with the grants it allows (R153). -/
def answerWriteLampConfig (p : Port) (flags : BitVec 40) (inrushTime : BitVec 16) (slotLimit : Byte)
    (s : State) : Answer :=
  if p = .p1 then .refuse .notPermitted s
  else
    let time := min 2000 (max 100 inrushTime.toNat)
    let limit := min 16 (max 1 slotLimit.toNat)
    let s1 := s.writeInrushFlags flags
    let s2 := { s1 with lampUnit := { s1.lampUnit with inrushTime := time, slotLimit := limit } }
    ⟨.ok, bytes2 time ++ [byte limit], s2.serveStaging⟩

/-- READ LAMPS (R154). -/
def answerReadLamps (_p : Port) (first : Byte) (s : State) : Answer :=
  match lampOf first with
  | none => .refuse .notFound s
  | some l =>
    let listed := ((allFin 40).drop l.val).take 10
    let staged := s.lampUnit.staging.take 8
    ⟨.ok,
      [first, byte listed.length] ++ listed.flatMap s.lampBytes
        ++ [byte s.lampUnit.slotLimit, byte s.lampUnit.slotsInUse] ++ bytes2 s.lampUnit.inrushTime
        ++ [byte s.lampUnit.staging.length, byte staged.length]
        ++ staged.map (fun l => byte l.val), s⟩

/-! ## Attention -/

/-- WRITE ATTENTION: the settings of the sending port, clamped (R161). -/
def answerWriteAttention (p : Port) (priorities : Vector Byte 7) (threshold lowMark : Byte) (s : State) :
    Answer :=
  let written := mapTable priorities fun b => min 7 b.toNat
  let level := min 7 threshold.toNat
  let mark := min 31 lowMark.toNat
  ⟨.ok, written.toList.map byte ++ [byte level, byte mark],
    s.modPort p fun ps =>
      { ps with
        attention := { ps.attention with priorities := written, threshold := level, lowMark := mark } }⟩

/-- The pending states of a port's sources, source n in bit n (11, section 11.4). -/
def pendingBits (mode : Mode) (ps : PortState) : Nat :=
  (allSources.map fun n => flagBit (sourcePending mode ps n) n).sum

/-- The edge flag of a source cleared, if it is an edge source (R157, R159). -/
def PortState.clearEdge (source : Option Nat) (ps : PortState) : PortState :=
  match source with
  | some 2 => { ps with attention := { ps.attention with faultEdge := false } }
  | some 3 => { ps with attention := { ps.attention with modeEdge := false } }
  | _ => ps

/-- TAKE EVENT: the chosen source, the pending states and the line after the event (R159). -/
def answerTakeEvent (p : Port) (s : State) : Answer :=
  let source := chosenSource s.control.mode (s.port p)
  let s1 := s.modPort p (PortState.clearEdge source)
  ⟨.ok,
    [byte (source.getD 0), byte (pendingBits s.control.mode (s1.port p)),
      flagByte (lineAsserted s.control.mode (s1.port p))], s1⟩

end Sys2Proof.Machine
end

