-- ==== Sys2Proof/Machine/ModeCommands.lean ====
section
/-!
DEFINITION. The commands of the mode controller: SET MODE, CLEAR ALARM and READ ALARM
(08_table_modes_the_coil_rail_and_alarms.md R128, R140, R141).
-/

namespace Sys2Proof.Machine

/-- Whether a target is within a port's reach (R128, test 1). -/
def targetPermitted : Port → Mode → Bool
  | .p1, _ => false
  | _, .alarm => false
  | .p0, .service => false
  | .p2, .game => false
  | .p2, .tilt => false
  | _, _ => true

/-- Whether a port may enter a target from the present mode (R128, test 2). -/
def mayEnter : Port → (target present : Mode) → Bool
  | .p0, .idle, .attract => true
  | .p0, .idle, .game => true
  | .p0, .idle, .tilt => true
  | .p0, .attract, .idle => true
  | .p0, .attract, .game => true
  | .p0, .attract, .tilt => true
  | .p0, .game, .idle => true
  | .p0, .game, .attract => true
  | .p0, .game, .tilt => true
  | .p0, .tilt, .game => true
  | .p2, .idle, .service => true
  | .p2, .attract, .service => true
  | .p2, .service, .idle => true
  | .p2, .service, .attract => true
  | _, _, _ => false

/-- SET MODE (R128). -/
def answerSetMode (p : Port) (mode : Byte) (s : State) : Answer :=
  match modeOf mode with
  | none => .refuse .notPermitted s
  | some target =>
    if !targetPermitted p target then .refuse .notPermitted s
    else if !mayEnter p target s.control.mode || !s.pins.resetn then .refuse .wrongMode s
    else
      let s1 := s.changeMode target
      ⟨.ok, [byte s1.control.mode.code], s1⟩

/-- CLEAR ALARM (R140). -/
def answerClearAlarm (p : Port) (s : State) : Answer :=
  if p = .p1 then .refuse .notPermitted s
  else if s.control.mode != .alarm then .refuse .notInAlarm s
  else if s.pins.sense.toList.any id then .refuse .shortPresent s
  else ⟨.ok, [], s.changeMode .idle⟩

/-- READ ALARM (R141). -/
def answerReadAlarm (_p : Port) (s : State) : Answer := ⟨.ok, s.alarmBytes, s⟩

end Sys2Proof.Machine
end

