-- ==== Sys2Proof/Machine/OrderCommands.lean ====
section
/-!
DEFINITION. The commands of the order intake and the completion unit: POST ORDER, CANCEL ORDER,
READ COMPLETIONS and READ RING (05 R74, R82; 06 R99, R104 to R106).
-/

namespace Sys2Proof.Machine

/-- Whether a tag is live on a port: in its ring or in the pending table (R76). -/
def State.tagLive (s : State) (p : Port) (tag : Byte) : Bool :=
  ((s.port p).ring.slots.any fun slot => slot.order.tag == tag) || (s.entry p tag).isSome

/-- The slot the next accepted order is written into (R77). -/
def Ring.tailSlot (r : Ring) : Nat := (r.head + r.slots.length) % Config.ringSize

/-- An accepted order is written into the ring and the takes follow (R74, R77, R79). -/
def State.acceptOrder (s : State) (p : Port) (o : Order) : State :=
  (s.modPort p fun ps =>
    { ps with ring := { ps.ring with slots := ps.ring.slots ++ [⟨o, none⟩] } }).doAll true [.takes p]

/-- The refusal of POST ORDER for an order whose channel and kind are known, if any, in the order of
the tests (R74). -/
def State.orderRefusal (s : State) (p : Port) (r : OrderRecord) (c : Chan) (kind : OrderKind) :
    Option Status :=
  let pr := (s.chan c).profile
  if kind == .train && r.count.toNat = 0 then some .badOrder
  else if !pr.posting.get p then some .notPermitted
  else if !pr.enabled then some .channelOffline
  else if !modeAllows s.control.mode p then some .wrongMode
  else if s.tagLive p r.tag then some .tagInUse
  else if Config.ringSize ≤ (s.port p).ring.slots.length then some .ringFull
  else none

/-- POST ORDER (R74). -/
def answerPostOrder (p : Port) (r : OrderRecord) (s : State) : Answer :=
  match channelOf r.channel, orderKindOf r.kind with
  | some c, some kind =>
    match s.orderRefusal p r c kind with
    | some status => .refuse status s
    | none => ⟨.ok, [byte (s.port p).ring.tailSlot], s.acceptOrder p (workingOrder r c kind)⟩
  | _, _ => .refuse .badOrder s

/-- A slot marked CANCELLED if it has the tag; the first mark is kept (R78, R104). -/
def Slot.cancel (tag : Byte) (slot : Slot) : Slot :=
  if slot.order.tag == tag then { slot with mark := slot.mark.or (some .cancelled) } else slot

/-- CANCEL ORDER of an order in RUNNING, by its kind and the phase of its pulse (R106). -/
def State.cancelRunning (s : State) (e : Entry) : Answer :=
  let c := e.order.channel
  match e.order.kind with
  | .pulse => .refuse .tooLate s
  | .hold =>
    match (s.chan c).phase with
    | .kick => ⟨.ok, [], s.modPulse c fun pu => { pu with released := true }⟩
    | .hold => ⟨.ok, [], s.endPulse c .release none⟩
    | .fold => ⟨.ok, [], s.endPulse c .release none⟩
    | _ => .refuse .notFound s
  | .train => ⟨.ok, [], s.modEntry e.port e.order.tag fun e => { e with stopAfterStep := true }⟩

/-- CANCEL ORDER (R104 to R106). -/
def answerCancelOrder (p : Port) (tag : Byte) (s : State) : Answer :=
  if (s.port p).ring.slots.any fun slot => slot.order.tag == tag then
    ⟨.ok, [], s.modPort p fun ps =>
      { ps with ring := { ps.ring with slots := ps.ring.slots.map (Slot.cancel tag) } }⟩
  else
    match s.liveEntry p tag with
    | none => .refuse .notFound s
    | some e =>
      match e.stage with
      | .running => s.cancelRunning e
      | .following _ => ⟨.ok, [], s.doAll true [.finish p tag .cancelled]⟩
      | .scheduled _ => ⟨.ok, [], s.doAll true [.finish p tag .cancelled]⟩
      | .queued => ⟨.ok, [], s.doAll true [.finish p tag .cancelled]⟩
      | .doneHeld => .refuse .notFound s

/-- Held entries move into the completion queue while there is room, at most n of them; each is freed
and the takes follow after each (R97). -/
def moveHeld (p : Port) : Nat → State → State
  | 0, s => s
  | n + 1, s =>
    match (s.port p).held with
    | [] => s
    | record :: rest =>
      if (s.port p).completions.length < Config.completionSize then
        let s1 := s.modPort p fun ps => { ps with completions := ps.completions ++ [record], held := rest }
        moveHeld p n ((s1.freeEntry p record.tag).doAll true [.takes p])
      else s

/-- READ COMPLETIONS: up to 4 records are removed, then held entries move in (R97, R99). The two counts of the reply
are read after the last take of the event, so that they count the records of orders that end at a take. DESIGN
CHOICE, unsafe (assumption 33). -/
def answerReadCompletions (p : Port) (s : State) : Answer :=
  let records := (s.port p).completions.take 4
  let s1 := s.modPort p fun ps => { ps with completions := ps.completions.drop 4 }
  let s2 := moveHeld p (Config.completionSize - (s1.port p).completions.length) s1
  ⟨.ok,
    [byte records.length, byte (s2.port p).completions.length, byte (s2.port p).held.length]
      ++ records.flatMap Completion.bytes, s2⟩

/-- READ RING (R82). -/
def answerReadRing (p : Port) (s : State) : Answer :=
  let ps := s.port p
  ⟨.ok,
    [byte ps.ring.slots.length, byte ps.ring.head, byte ps.freeSlots, byte (s.entriesOf p).length,
      byte ps.completions.length, byte ps.held.length], s⟩

end Sys2Proof.Machine
end

