-- ==== Sys2Proof/Machine/Switches.lean ====
section
/-!
DEFINITION. The switch input unit and the reflex table's use of its edges
(07_switch_inputs_and_reflexes.md R109 to R125).
-/

namespace Sys2Proof.Machine

/-! ## The reflex table and an edge -/

/-- Whether an entry is concerned with an edge of a switch; an OPEN edge does not concern an ARMED FLIP
entry (R120, R122). -/
def Reflex.concerned (r : Reflex) (n : SwitchNo) (close : Bool) : Bool :=
  r.state != .disarmed && r.switch == n &&
    (r.openEdge != close || (r.action == .flip && !close && r.state != .armed))

/-- A request arrives at its channel queue at priority 8; at an OFFLINE or FAULTED channel it is
dropped (R35, R120, R121). -/
def State.arriveRequest (s : State) (x : ReflexNo) : State :=
  match channelOf (s.reflexAt x).channel with
  | none => s
  | some c =>
    match (s.chan c).phase with
    | .offline => s.dropRequest x .channelOffline
    | .faulted => s.dropRequest x .channelFault
    | _ =>
      let a := (s.chan c).arrivals
      let s1 := s.modChan c fun ch => { ch with arrivals := a + 1 }
      let r := enqueue true c { owner := .reflex x, priority := 8, arrival := a } s1
      r.state.doAll true r.next

/-- A FIRE or FLIP entry's trigger: its report is cleared and its request raised (R120). -/
def State.trigger (s : State) (x : ReflexNo) : State :=
  (s.modReflex x fun r => { r with state := .waiting, report := .clear }).arriveRequest x

/-- A WAITING FLIP's request is withdrawn: it leaves its channel queue, the next member is offered and
the entry returns to ARMED (R122). -/
def State.withdraw (s : State) (x : ReflexNo) : State :=
  let s1 := s.modReflex x fun r => { r with state := .armed }
  match channelOf (s.reflexAt x).channel with
  | none => s1
  | some c => (s1.leaveQueue true c (.reflex x)).doAll true [.offer [c]]

/-- An entry's trigger edge, by its state and action (R120). -/
def State.triggerEdge (s : State) (x : ReflexNo) : ReflexAct × State :=
  let r := s.reflexAt x
  if r.state == .armed then
    match r.action with
    | .fire => (.trigger, s.trigger x)
    | .flip => (.trigger, s.trigger x)
    | .tilt => if s.control.mode == .game then (.trigger, s.changeMode .tilt) else (.ignored, s)
  else (.ignored, s)

/-- A FLIP entry's OPEN edge, by its state (R122). -/
def State.openEdge (s : State) (x : ReflexNo) : ReflexAct × State :=
  match (s.reflexAt x).state with
  | .waiting => (.withdraw, s.withdraw x)
  | .spent => (.rearm, s.modReflex x fun r => { r with state := .armed })
  | .active =>
    match channelOf (s.reflexAt x).channel with
    | none => (.ignored, s)
    | some c =>
      if (s.chan c).runs (.reflex x) then (.release, s.endPulse c .release none)
      else (.ignored, s)
  | .armed => (.ignored, s)
  | .disarmed => (.ignored, s)

/-- An entry's action on an edge that concerns it (R120, R122). -/
def State.reflexAct (s : State) (x : ReflexNo) (close : Bool) : ReflexAct × State :=
  if (s.reflexAt x).action == .flip && !close then s.openEdge x else s.triggerEdge x

/-- The reflex table's use of an edge, entry by entry: the lowest-numbered entry concerned with its
action, and the state (R120). -/
def reflexEdge (n : SwitchNo) (close : Bool) :
    List ReflexNo → Option (ReflexNo × ReflexAct) → State → Option (ReflexNo × ReflexAct) × State
  | [], named, s => (named, s)
  | x :: xs, named, s =>
    if (s.reflexAt x).concerned n close then
      let (act, s1) := s.reflexAct x close
      reflexEdge n close xs (named.or (some (x, act))) s1
    else reflexEdge n close xs named s

/-- The reflex part of the record of an edge, from the report as it stands after the reflex table's
actions (R120). -/
def State.reflexPart (s : State) (named : Option (ReflexNo × ReflexAct)) : Option ReflexPart :=
  named.map fun (x, act) =>
    let report := (s.reflexAt x).report
    { entry := x
      act := act
      heatWaited := report.heatWaited
      railWaited := report.railWaited
      dropped := report.drop.isSome }

/-! ## Records and edges -/

/-- A switch event record offered to a port's queue: it enters, with the lost count, or is lost
(R115). -/
def Subscription.offerEvent (sub : Subscription) (ev : SwitchEvent) : Subscription :=
  if sub.events.length < Config.eventSize then
    { sub with
      events := sub.events ++ [{ ev with lostBefore := if sub.lost = 0 then none else some sub.lost }]
      lost := 0 }
  else { sub with lost := min 255 (sub.lost + 1) }

/-- The record of an edge offered to one port, if its subscription set holds the switch (R111, R114). -/
def State.offerEvent (s : State) (ev : SwitchEvent) (p : Port) : State :=
  if (s.port p).switches.set.getLsbD ev.switch.val then
    s.modPort p fun ps => { ps with switches := ps.switches.offerEvent ev }
  else s

/-- An edge of a switch: the reflex table acts, then each subscribed port gets its record (R111). -/
def State.edge (s : State) (n : SwitchNo) (close : Bool) : State :=
  let (named, s1) := reflexEdge n close (allFin 16) none s
  let ev : SwitchEvent :=
    { switch := n
      close := close
      time := s.time
      lostBefore := none
      reflex := s1.reflexPart named }
  Port.all.foldl (fun s p => s.offerEvent ev p) s1

/-! ## Debounce -/

/-- The reading of a raw level through a polarity: true for raw closed (R109). -/
def rawClosed (closedHigh high : Bool) : Bool := closedHigh == high

/-- The debounced state of a switch changes, and this is an edge (R110, R111). -/
def State.debounced (s : State) (n : SwitchNo) : State :=
  let close := !(s.switchAt n).closed
  (s.modSwitch n fun sw => { sw with closed := close, debounceAt := none }).edge n close

/-- The debounce time toward the state a switch is not in (R110). -/
def Switch.debounceTime (sw : Switch) : Nat := if sw.closed then sw.openTime else sw.closeTime

/-- A raw change acts on the debounce of its switch (R110). A debounce of 0 expires at once (R6). -/
def State.rawChange (s : State) (n : SwitchNo) (high : Bool) : State :=
  let s1 := { s with pins := { s.pins with switch := s.pins.switch.set n high } }
  let sw := s.switchAt n
  if rawClosed sw.closedHigh high == sw.closed then
    s1.modSwitch n fun sw => { sw with debounceAt := none }
  else
    match sw.debounceAt with
    | some _ => s1
    | none =>
      if sw.debounceTime = 0 then s1.debounced n
      else s1.modSwitch n fun sw => { sw with debounceAt := some (s.now + sw.debounceTime) }

/-- DEBOUNCE_EXPIRY (R111). -/
def State.takeDebounce (s : State) (n : SwitchNo) : State :=
  if s.expired (s.switchAt n).debounceAt then s.debounced n else s

end Sys2Proof.Machine
end

