-- ==== Sys2Proof/Machine/SwitchCommands.lean ====
section
/-!
DEFINITION. The commands of the switch input unit and the reflex table: WRITE SWITCH CONFIG,
READ SWITCHES, SUBSCRIBE, READ SWITCH EVENTS, WRITE REFLEX and READ REFLEX
(07_switch_inputs_and_reflexes.md R112 to R118, R126).
-/

namespace Sys2Proof.Machine

/-- Whether a reflex entry has work in hand: WAITING, ACTIVE or SPENT (R112, R118). -/
def ReflexState.busy : ReflexState → Bool
  | .waiting => true
  | .active => true
  | .spent => true
  | .disarmed => false
  | .armed => false

/-- Whether a reflex entry that names a switch has work in hand (R112, test 4). -/
def State.switchBusy (s : State) (n : SwitchNo) : Bool :=
  s.reflexes.toList.any fun r => r.switch == n && r.state.busy

/-- An accepted switch configuration; a change of polarity abandons the debounce and reads the
debounced state from the raw level, with no edge (R112). -/
def State.writeSwitch (s : State) (n : SwitchNo) (closedHigh : Bool) (closeTime openTime : Nat) : State :=
  s.modSwitch n fun sw =>
    let sw1 := { sw with closedHigh := closedHigh, closeTime := closeTime, openTime := openTime }
    if sw.closedHigh == closedHigh then sw1
    else { sw1 with debounceAt := none, closed := rawClosed closedHigh s.pins.switch[n] }

/-- WRITE SWITCH CONFIG (R112). -/
def answerWriteSwitchConfig (p : Port) (switch : Byte) (closedHigh : Bool) (closeTime openTime : Byte)
    (s : State) : Answer :=
  if p = .p1 then .refuse .notPermitted s
  else
    match switchOf switch with
    | none => .refuse .notFound s
    | some n =>
      if !configAllowed s.control.mode p then .refuse .wrongMode s
      else if (s.switchAt n).closedHigh != closedHigh && s.switchBusy n then .refuse .entryBusy s
      else ⟨.ok, [], s.writeSwitch n closedHigh closeTime.toNat openTime.toNat⟩

/-- READ SWITCHES (R113). -/
def answerReadSwitches (_p : Port) (s : State) : Answer :=
  ⟨.ok, setBytes4 (bitSet (s.switches.toList.map (·.closed))) ++ timeBytes s.time, s⟩

/-- SUBSCRIBE (R114). -/
def answerSubscribe (p : Port) (set : BitVec 32) (s : State) : Answer :=
  ⟨.ok, [], s.modPort p fun ps => { ps with switches := { ps.switches with set := set } }⟩

/-- READ SWITCH EVENTS: up to 6 records are removed (R116). -/
def answerReadSwitchEvents (p : Port) (s : State) : Answer :=
  let sub := (s.port p).switches
  let records := sub.events.take 6
  ⟨.ok,
    [byte records.length, byte (sub.events.drop 6).length, byte sub.lost]
      ++ records.flatMap SwitchEvent.bytes,
    s.modPort p fun ps => { ps with switches := { ps.switches with events := ps.switches.events.drop 6 } }⟩

/-- The fields of a reflex write whose switch, action and channel are in range; the trigger edge of a
FLIP is written as CLOSE (R118). -/
def reflexFields (r : ReflexRecord) : Option (SwitchNo × Action) :=
  match switchOf r.switch, actionOf r.action with
  | some n, some action =>
    if action != .tilt && (channelOf r.channel).isNone then none else some (n, action)
  | _, _ => none

/-- An accepted reflex write: the fields are replaced, the report is cleared and the state is decided
anew (R118, R119). -/
def State.writeReflex (s : State) (x : ReflexNo) (r : ReflexRecord) (n : SwitchNo) (action : Action) :
    State :=
  s.modReflex x fun _ =>
    let written : Reflex :=
      { switch := n
        openEdge := r.openEdge && action != .flip
        action := action
        channel := r.channel
        inAttract := r.inAttract
        inGame := r.inGame
        enabled := r.enabled
        state := .disarmed
        report := .clear }
    { written with state := written.restState s.control.mode }

/-- WRITE REFLEX (R118). -/
def answerWriteReflex (p : Port) (entry : Byte) (r : ReflexRecord) (s : State) : Answer :=
  if p = .p1 then .refuse .notPermitted s
  else
    match reflexOf entry with
    | none => .refuse .notFound s
    | some x =>
      match reflexFields r with
      | none => .refuse .badOrder s
      | some (n, action) =>
        if !configAllowed s.control.mode p then .refuse .wrongMode s
        else if (s.reflexAt x).state.busy then .refuse .entryBusy s
        else ⟨.ok, [], s.writeReflex x r n action⟩

/-- READ REFLEX (R126). -/
def answerReadReflex (_p : Port) (entry : Byte) (s : State) : Answer :=
  match reflexOf entry with
  | none => .refuse .notFound s
  | some x => ⟨.ok, s.reflexBytes x, s⟩

end Sys2Proof.Machine
end

