-- ==== Sys2Proof/Machine/Frames.lean ====
section
/-!
DEFINITION. Frames (11_link_ports_and_frame_layouts.md): the CRC, the command a frame carries, the frame
that carries a command, the acts of the 29 commands, and the reply (R166 to R169, sections 11.4, 11.5).
-/

namespace Sys2Proof.Machine

/-! ## The CRC -/

/-- One shift of the CRC register: the bit shifted out brings in the polynomial 07h (R168). -/
def crcShift (r : Byte) : Byte := if r.msb then (r <<< 1) ^^^ 0x07 else r <<< 1

/-- The CRC register after one byte: the byte combined in, then 8 shifts (R168). -/
def crcByte (r b : Byte) : Byte :=
  crcShift (crcShift (crcShift (crcShift (crcShift (crcShift (crcShift (crcShift (r ^^^ b))))))))

/-- The CRC of a string of bytes (R168). -/
def crc8 (bytes : List Byte) : Byte := bytes.foldl crcByte 0

/-! ## Commands -/

/-- The 29 commands of section 11.4, with the fields of their bodies. The port is not among them: no
command names a port. -/
inductive Command where
  | portReset
  | tableReset
  | readClock
  | setAlarmTime (time : TableTime)
  | disarm
  | postOrder (order : OrderRecord)
  | cancelOrder (tag : Byte)
  | readCompletions
  | readRing
  | writeProfile (channel : Byte) (profile : ProfileRecord)
  | readProfile (channel : Byte)
  | readChannel (channel : Byte)
  | clearFault (channel : Byte)
  | writeRail (budget : Byte) (reserve : Byte)
  | readRail
  | setMode (mode : Byte)
  | clearAlarm
  | readAlarm
  | writeSwitchConfig (switch : Byte) (closedHigh : Bool) (closeTime : Byte) (openTime : Byte)
  | readSwitches
  | subscribe (set : BitVec 32)
  | readSwitchEvents
  | writeReflex (entry : Byte) (fields : ReflexRecord)
  | readReflex (entry : Byte)
  | writeLamps (writes : List CellWrite)
  | writeLampConfig (flags : BitVec 40) (inrushTime : BitVec 16) (slotLimit : Byte)
  | readLamps (first : Byte)
  | writeAttention (priorities : Vector Byte 7) (threshold : Byte) (lowMark : Byte)
  | takeEvent
  deriving DecidableEq, Repr

/-! ## Reading a body -/

/-- A number of two bytes, most significant first (R169). -/
def number2 (b0 b1 : Byte) : BitVec 16 := b0 ++ b1

/-- A number of three bytes, most significant first (R169). -/
def number3 (b0 b1 b2 : Byte) : BitVec 24 := b0 ++ b1 ++ b2

/-- A number of four bytes, most significant first (R169). -/
def number4 (b0 b1 b2 b3 : Byte) : BitVec 32 := b0 ++ b1 ++ b2 ++ b3

/-- A bit set of four bytes, the lowest numbers in the first byte (11, section 11.4). -/
def set4 (b0 b1 b2 b3 : Byte) : BitVec 32 := b3 ++ b2 ++ b1 ++ b0

/-- A bit set of five bytes, the lowest numbers in the first byte (11, section 11.4). -/
def set5 (b0 b1 b2 b3 b4 : Byte) : BitVec 40 := b4 ++ b3 ++ b2 ++ b1 ++ b0

/-- The order record in its first 8 bytes, with a due time or without (11, section 11.5). -/
def readOrder (b0 b1 b2 b3 b4 b5 b6 b7 : Byte) (due : Option TableTime) : OrderRecord where
  tag := b0
  channel := b1
  kind := b2
  priority := b3.extractLsb' 0 3
  follow := b3.getLsbD 6
  quiet := b3.getLsbD 7
  fraction := b4.extractLsb' 0 5
  count := b5.extractLsb' 0 6
  gap := number2 b6 b7
  due := due

/-- The cell writes of a WRITE LAMPS body: 5 bytes each (R144; 11, section 11.4). -/
def readCells : List Byte → Option (List CellWrite)
  | [] => some []
  | lamp :: content :: pattern :: level :: rate :: rest =>
    (readCells rest).map fun writes => ⟨lamp, content, pattern, level, rate⟩ :: writes
  | _ => none

/-- The one command of a code whose body is one byte that is not read (R169). -/
def plainBody (c : Command) : List Byte → Except Status Command
  | [_] => .ok c
  | _ => .error .badLength

/-- The command of a code whose body is one byte (11, section 11.4). -/
def byteBody (f : Byte → Command) : List Byte → Except Status Command
  | [b] => .ok (f b)
  | _ => .error .badLength

/-- SET ALARM TIME's body. -/
def timeBody : List Byte → Except Status Command
  | [b0, b1, b2, b3] => .ok (.setAlarmTime (number4 b0 b1 b2 b3))
  | _ => .error .badLength

/-- POST ORDER's body: 8 bytes, or 12 with a due time (R73, R169). -/
def orderBody : List Byte → Except Status Command
  | [b0, b1, b2, b3, b4, b5, b6, b7] => .ok (.postOrder (readOrder b0 b1 b2 b3 b4 b5 b6 b7 none))
  | [b0, b1, b2, b3, b4, b5, b6, b7, t0, t1, t2, t3] =>
    .ok (.postOrder (readOrder b0 b1 b2 b3 b4 b5 b6 b7 (some (number4 t0 t1 t2 t3))))
  | _ => .error .badLength

/-- WRITE PROFILE's body: the channel and the 17 bytes of the profile (11, section 11.4). -/
def profileBody : List Byte → Except Status Command
  | [channel, flags, k0, k1, draw, holdDuty, foldDuty, factor, cooling, c0, c1, c2, r0, r1, m0, m1, m2,
      sense] =>
    .ok (.writeProfile channel
      { enabled := flags.getLsbD 0
        overtimeLatches := flags.getLsbD 1
        postP0 := flags.getLsbD 2
        postP1 := flags.getLsbD 3
        postP2 := flags.getLsbD 4
        kickTime := number2 k0 k1
        kickDraw := draw
        holdDuty := holdDuty
        foldDuty := foldDuty
        heatFactor := factor
        cooling := cooling
        ceiling := number3 c0 c1 c2
        recycle := number2 r0 r1
        maxOn := number3 m0 m1 m2
        senseDelay := sense })
  | _ => .error .badLength

/-- WRITE RAIL's body. -/
def railBody : List Byte → Except Status Command
  | [budget, reserve] => .ok (.writeRail budget reserve)
  | _ => .error .badLength

/-- WRITE SWITCH CONFIG's body; any polarity but 00h is CLOSED HIGH. -/
def switchBody : List Byte → Except Status Command
  | [switch, polarity, closeTime, openTime] =>
    .ok (.writeSwitchConfig switch (polarity != 0) closeTime openTime)
  | _ => .error .badLength

/-- SUBSCRIBE's body. -/
def setBody : List Byte → Except Status Command
  | [b0, b1, b2, b3] => .ok (.subscribe (set4 b0 b1 b2 b3))
  | _ => .error .badLength

/-- WRITE REFLEX's body. -/
def reflexBody : List Byte → Except Status Command
  | [entry, switch, edge, action, channel, modes, enabled] =>
    .ok (.writeReflex entry
      { switch := switch
        openEdge := edge != 0
        action := action
        channel := channel
        inAttract := modes.getLsbD 0
        inGame := modes.getLsbD 1
        enabled := enabled != 0 })
  | _ => .error .badLength

/-- WRITE LAMPS' body: 1 to 12 cell writes (R169). -/
def lampsBody (body : List Byte) : Except Status Command :=
  match readCells body with
  | some writes => if cellWritesOk writes then .ok (.writeLamps writes) else .error .badLength
  | none => .error .badLength

/-- WRITE LAMP CONFIG's body. -/
def lampConfigBody : List Byte → Except Status Command
  | [f0, f1, f2, f3, f4, t0, t1, limit] =>
    .ok (.writeLampConfig (set5 f0 f1 f2 f3 f4) (number2 t0 t1) limit)
  | _ => .error .badLength

/-- WRITE ATTENTION's body. -/
def attentionBody : List Byte → Except Status Command
  | [p1, p2, p3, p4, p5, p6, p7, threshold, lowMark] =>
    .ok (.writeAttention #v[p1, p2, p3, p4, p5, p6, p7] threshold lowMark)
  | _ => .error .badLength

/-- The command of a code and a body, UNKNOWN COMMAND or BAD LENGTH (R166, checks 2 and 3). -/
def commandOf (code : Byte) (body : List Byte) : Except Status Command :=
  match code.toNat with
  | 0x0E => plainBody .portReset body
  | 0x0F => plainBody .tableReset body
  | 0x11 => plainBody .readClock body
  | 0x12 => timeBody body
  | 0x13 => plainBody .disarm body
  | 0x21 => orderBody body
  | 0x22 => byteBody .cancelOrder body
  | 0x23 => plainBody .readCompletions body
  | 0x24 => plainBody .readRing body
  | 0x31 => profileBody body
  | 0x32 => byteBody .readProfile body
  | 0x33 => byteBody .readChannel body
  | 0x34 => byteBody .clearFault body
  | 0x41 => railBody body
  | 0x42 => plainBody .readRail body
  | 0x51 => byteBody .setMode body
  | 0x52 => plainBody .clearAlarm body
  | 0x53 => plainBody .readAlarm body
  | 0x61 => switchBody body
  | 0x62 => plainBody .readSwitches body
  | 0x63 => setBody body
  | 0x64 => plainBody .readSwitchEvents body
  | 0x65 => reflexBody body
  | 0x66 => byteBody .readReflex body
  | 0x71 => lampsBody body
  | 0x72 => lampConfigBody body
  | 0x73 => byteBody .readLamps body
  | 0x81 => attentionBody body
  | 0x82 => plainBody .takeEvent body
  | _ => .error .unknownCommand

/-- The command a complete frame carries, or the status of the first check that fails (R166). -/
def checkFrame : Frame → Except Status Command
  | .discarded => .error .badFrame
  | .bytes bytes =>
    if some (crc8 bytes.dropLast) = bytes.getLast? then
      match bytes.dropLast with
      | _ :: code :: body => commandOf code body
      | _ => .error .badFrame
    else .error .badFrame

/-! ## Writing a frame -/

/-- The code of a command (11, section 11.4). -/
def Command.code : Command → Byte
  | .portReset => 0x0E
  | .tableReset => 0x0F
  | .readClock => 0x11
  | .setAlarmTime _ => 0x12
  | .disarm => 0x13
  | .postOrder _ => 0x21
  | .cancelOrder _ => 0x22
  | .readCompletions => 0x23
  | .readRing => 0x24
  | .writeProfile _ _ => 0x31
  | .readProfile _ => 0x32
  | .readChannel _ => 0x33
  | .clearFault _ => 0x34
  | .writeRail _ _ => 0x41
  | .readRail => 0x42
  | .setMode _ => 0x51
  | .clearAlarm => 0x52
  | .readAlarm => 0x53
  | .writeSwitchConfig _ _ _ _ => 0x61
  | .readSwitches => 0x62
  | .subscribe _ => 0x63
  | .readSwitchEvents => 0x64
  | .writeReflex _ _ => 0x65
  | .readReflex _ => 0x66
  | .writeLamps _ => 0x71
  | .writeLampConfig _ _ _ => 0x72
  | .readLamps _ => 0x73
  | .writeAttention _ _ _ => 0x81
  | .takeEvent => 0x82

/-- Byte n of a number, counted from the least significant. -/
def byteAt {w : Nat} (v : BitVec w) (n : Nat) : Byte := v.extractLsb' (8 * n) 8

/-- The bytes of a 16-bit number, most significant first. -/
def split2 (v : BitVec 16) : List Byte := [byteAt v 1, byteAt v 0]

/-- The bytes of a 24-bit number, most significant first. -/
def split3 (v : BitVec 24) : List Byte := [byteAt v 2, byteAt v 1, byteAt v 0]

/-- The bytes of a 32-bit number, most significant first. -/
def split4 (v : BitVec 32) : List Byte := [byteAt v 3, byteAt v 2, byteAt v 1, byteAt v 0]

/-- An order record's byte 3, from the highest bit: quiet, follow, three bits not assigned, priority
(11, section 11.5). -/
def orderFlags (r : OrderRecord) : Byte :=
  BitVec.ofBool r.quiet ++ BitVec.ofBool r.follow ++ (0 : BitVec 3) ++ r.priority

/-- An order record of 8 or 12 bytes (11, section 11.5). -/
def orderBytes (r : OrderRecord) : List Byte :=
  [r.tag, r.channel, r.kind, orderFlags r, (0 : BitVec 3) ++ r.fraction, (0 : BitVec 2) ++ r.count]
    ++ split2 r.gap
    ++ match r.due with
      | none => []
      | some due => split4 due

/-- The flags byte of a profile (11, section 11.4). -/
def profileFlags (r : ProfileRecord) : Byte :=
  (0 : BitVec 3) ++ BitVec.ofBool r.postP2 ++ BitVec.ofBool r.postP1 ++ BitVec.ofBool r.postP0
    ++ BitVec.ofBool r.overtimeLatches ++ BitVec.ofBool r.enabled

/-- A profile of 17 bytes (11, section 11.4). -/
def profileRecordBytes (r : ProfileRecord) : List Byte :=
  [profileFlags r] ++ split2 r.kickTime
    ++ [r.kickDraw, r.holdDuty, r.foldDuty, r.heatFactor, r.cooling]
    ++ split3 r.ceiling ++ split2 r.recycle ++ split3 r.maxOn ++ [r.senseDelay]

/-- A cell write of 5 bytes (11, section 11.4). -/
def cellBytes (w : CellWrite) : List Byte := [w.lamp, w.content, w.pattern, w.level, w.rate]

/-- The armed modes byte of a reflex entry (11, section 11.4). -/
def modesByte (inAttract inGame : Bool) : Byte :=
  (0 : BitVec 6) ++ BitVec.ofBool inGame ++ BitVec.ofBool inAttract

/-- The body of a command; a byte that is not read is sent as 0. -/
def Command.body : Command → List Byte
  | .portReset => [0]
  | .tableReset => [0]
  | .readClock => [0]
  | .setAlarmTime time => split4 time
  | .disarm => [0]
  | .postOrder order => orderBytes order
  | .cancelOrder tag => [tag]
  | .readCompletions => [0]
  | .readRing => [0]
  | .writeProfile channel profile => channel :: profileRecordBytes profile
  | .readProfile channel => [channel]
  | .readChannel channel => [channel]
  | .clearFault channel => [channel]
  | .writeRail budget reserve => [budget, reserve]
  | .readRail => [0]
  | .setMode mode => [mode]
  | .clearAlarm => [0]
  | .readAlarm => [0]
  | .writeSwitchConfig switch closedHigh closeTime openTime =>
    [switch, flagByte closedHigh, closeTime, openTime]
  | .readSwitches => [0]
  | .subscribe set => [byteAt set 0, byteAt set 1, byteAt set 2, byteAt set 3]
  | .readSwitchEvents => [0]
  | .writeReflex entry r =>
    [entry, r.switch, flagByte r.openEdge, r.action, r.channel, modesByte r.inAttract r.inGame,
      flagByte r.enabled]
  | .readReflex entry => [entry]
  | .writeLamps writes => writes.flatMap cellBytes
  | .writeLampConfig flags inrushTime slotLimit =>
    [byteAt flags 0, byteAt flags 1, byteAt flags 2, byteAt flags 3, byteAt flags 4]
      ++ split2 inrushTime ++ [slotLimit]
  | .readLamps first => [first]
  | .writeAttention priorities threshold lowMark => priorities.toList ++ [threshold, lowMark]
  | .takeEvent => [0]

/-- Bytes closed by their CRC. -/
def closeFrame (bytes : List Byte) : List Byte := bytes ++ [crc8 bytes]

/-- The frame that carries a command: LEN, CODE, body and CRC (11, section 11.5). -/
def Command.frame (c : Command) : List Byte :=
  closeFrame (byte (3 + c.body.length) :: c.code :: c.body)

/-! ## What a command does -/

/-- PORT RESET: it is answered before it takes effect (R171). -/
def answerPortReset (p : Port) (s : State) : Answer :=
  ⟨.ok, [], s.modPort p fun ps => { ps with link := { ps.link with awaiting := some .port } }⟩

/-- TABLE RESET: refused from P1, else answered before it takes effect (R172). -/
def answerTableReset (p : Port) (s : State) : Answer :=
  if p = .p1 then .refuse .notPermitted s
  else ⟨.ok, [], s.modPort p fun ps => { ps with link := { ps.link with awaiting := some .table } }⟩

/-- The act of a command taken on a port, by the block that owns its state (R166). -/
def Command.answer (c : Command) (p : Port) (s : State) : Answer :=
  match c with
  | .portReset => answerPortReset p s
  | .tableReset => answerTableReset p s
  | .readClock => answerReadClock p s
  | .setAlarmTime time => answerSetAlarmTime p time s
  | .disarm => answerDisarm p s
  | .postOrder order => answerPostOrder p order s
  | .cancelOrder tag => answerCancelOrder p tag s
  | .readCompletions => answerReadCompletions p s
  | .readRing => answerReadRing p s
  | .writeProfile channel profile => answerWriteProfile p channel profile s
  | .readProfile channel => answerReadProfile p channel s
  | .readChannel channel => answerReadChannel p channel s
  | .clearFault channel => answerClearFault p channel s
  | .writeRail budget reserve => answerWriteRail p budget reserve s
  | .readRail => answerReadRail p s
  | .setMode mode => answerSetMode p mode s
  | .clearAlarm => answerClearAlarm p s
  | .readAlarm => answerReadAlarm p s
  | .writeSwitchConfig switch closedHigh closeTime openTime =>
    answerWriteSwitchConfig p switch closedHigh closeTime openTime s
  | .readSwitches => answerReadSwitches p s
  | .subscribe set => answerSubscribe p set s
  | .readSwitchEvents => answerReadSwitchEvents p s
  | .writeReflex entry r => answerWriteReflex p entry r s
  | .readReflex entry => answerReadReflex p entry s
  | .writeLamps writes => answerWriteLamps p writes s
  | .writeLampConfig flags inrushTime slotLimit => answerWriteLampConfig p flags inrushTime slotLimit s
  | .readLamps first => answerReadLamps p first s
  | .writeAttention priorities threshold lowMark => answerWriteAttention p priorities threshold lowMark s
  | .takeEvent => answerTakeEvent p s

/-! ## The reply -/

/-- A reply frame: LEN, STATUS, FLAGS, body and CRC (R167; 11, section 11.5). -/
def replyFrame (status : Status) (lost : Bool) (mode : Mode) (body : List Byte) : List Byte :=
  closeFrame (byte (4 + body.length) :: status.code :: flagsByte lost mode :: body)

/-- The reply built and its sending begun: FLAGS with the lost flag as it stands and the mode after the
command, and the lost flag cleared (R167). -/
def sendReply (p : Port) (a : Answer) : State :=
  a.state.modPort p fun ps =>
    { ps with
      link :=
        { ps.link with
          lost := false
          sending := some (replyFrame a.status ps.link.lost a.state.control.mode a.body) } }

end Sys2Proof.Machine
end

