-- ==== Sys2Proof/Machine/Resets.lean ====
section
/-!
DEFINITION. The three resets and the fall of the supply: power-on (R173), table reset (R172) and port
reset (R171), each block's part as its own chapter gives it.
-/

namespace Sys2Proof.Machine

/-! ## Power -/

/-- The power-on values of every block, with the input pins as they are: the debounced state of each
switch is read from its raw level (R109, R173). The waiting commands and the model's count of free
choices are not the part's and stay. -/
def State.powerOn (s : State) : State :=
  { State.reset with
    pins := s.pins
    switches := mapTable s.pins.switch Switch.default
    free := s.free
    pending := s.pending }

/-- The supply below its range: the part keeps no state and every output is inactive (R173). -/
def State.powerOff (s : State) : State := { s.powerOn with powered := false }

/-! ## Table reset -/

/-- A channel at a table reset: everything at its default but the heat, brought up to date at the rate
in force before the reset (R16, R36, R53). -/
def Channel.tableReset (now : Nat) (ch : Channel) : Channel :=
  { Channel.default with heat := ch.heatNow now, heatAt := now }

/-- A port at a table reset: everything at its default but the comparator's value (R7, R92, R108,
R117, R162, R172). -/
def PortState.tableReset (ps : PortState) : PortState :=
  { PortState.default with comparator := ⟨ps.comparator.value, false, false⟩ }

/-- The table reset: it keeps the clock, the heat, the alarm record, the comparator values and the
filament states (R2, R7, R53, R142, R155, R172). -/
def State.tableReset (s : State) : State :=
  { s with
    ports := ⟨s.ports.p0.tableReset, s.ports.p1.tableReset, s.ports.p2.tableReset⟩
    table := []
    channels := mapTable s.channels (Channel.tableReset s.now)
    arbiter := .default
    switches := mapTable s.pins.switch Switch.default
    reflexes := .replicate 16 .default
    control := { Control.default with alarm := s.control.alarm }
    lampUnit := { LampUnit.default with lamps := mapTable s.lampUnit.lamps (Lamp.tableReset s.now) } }

/-! ## Port reset -/

/-- Whether a pulse is owned by an order of a port. -/
def Pulse.ofPort (pu : Pulse) (p : Port) : Bool :=
  match pu.owner with
  | .order q _ => pu.owned && q == p
  | .reflex _ => false

/-- A port reset's part in one channel's pulse: a live pulse of the port ends with cause ABORT, and a
recycle of the port's goes on without an owner (R36, R92). -/
def State.portResetPulse (p : Port) (s : State) (c : Chan) : State :=
  if (s.chan c).pulse.any (·.ofPort p) then
    if (s.chan c).phase.isLive then s.abortPulse c
    else s.modPulse c fun pu => { pu with owned := false }
  else s

/-- A port reset's part in the port's own record: the comparator keeps its value, the subscription set
and the attention settings are kept, everything else takes its port-reset value (R7, R92, R108, R117,
R162, R171). -/
def PortState.portReset (ps : PortState) : PortState :=
  { PortState.default with
    comparator := ⟨ps.comparator.value, false, false⟩
    switches := ⟨ps.switches.set, [], 0⟩
    attention := { ps.attention with faultEdge := false, modeEdge := false } }

/-- The port's entries leave the channel queues and the admission list, with no record (R36, R72,
R92). -/
def State.portResetEntry (s : State) (e : Entry) : State :=
  s.leaveQueue false e.order.channel (.order e.port e.order.tag)

/-- The port reset of a port: its pulses end, its entries, ring, records and link state are discarded,
the admission list is examined after the falls and departures, and the queues that lost their testing
front offer their next member (R36, R72, R92, R108, R117, R162, R171). Orders that end OVERSIZE
at these offers end oldest take first (R96, `State.nextOffer`). Which of several members joins first, and so takes
the earlier join position, the spec leaves open (R60: either order); the model goes from C0 to C23. DESIGN CHOICE,
unsafe (assumption 29). -/
def State.portReset (s : State) (p : Port) : State :=
  let s1 := (allFin 24).foldl (State.portResetPulse p) s
  let s2 := (s1.entriesOf p).foldl State.portResetEntry s1
  let s3 := { s2 with table := s2.table.filter fun e => e.port != p }.modPort p PortState.portReset
  s3.examine.doAll true [.offer (allFin 24)]

end Sys2Proof.Machine
end

