-- ==== Sys2Proof/Machine/Links.lean ====
section
/-!
DEFINITION. The link ports (11_link_ports_and_frame_layouts.md R163 to R167, R171, R172): the receive
buffer, the gap interval, the hold buffer, the take of a frame and the end of a reply.
-/

namespace Sys2Proof.Machine

/-- The state with one port's link changed. -/
def State.modLink (s : State) (p : Port) (f : Link → Link) : State :=
  s.modPort p fun ps => { ps with link := f ps.link }

/-- One port's link. -/
def State.link (s : State) (p : Port) : Link := (s.port p).link

/-! ## The take -/

/-- The answer to a frame: the command's, or the refusal of the first check that fails (R166). -/
def frameAnswer (p : Port) (f : Frame) (s : State) : Answer :=
  match checkFrame f with
  | .error status => .refuse status s
  | .ok c => c.answer p s

/-- The take of a frame: it is checked, the command acts and the reply is begun (R166, R167). -/
def State.takeFrame (s : State) (p : Port) (f : Frame) : State := sendReply p (frameAnswer p f s)

/-- A frame that completes is taken, held or lost, by the transmitter and the hold buffer (R165). -/
def State.frameComplete (s : State) (p : Port) (f : Frame) : State :=
  match (s.link p).sending, (s.link p).held with
  | none, _ => s.takeFrame p f
  | some _, none => s.modLink p fun l => { l with held := some f }
  | some _, some _ => s.modLink p fun l => { l with lost := true }

/-! ## Bytes and gaps -/

/-- The expected length of a partial frame: its first byte (R163). -/
def expectedLength (bytes : List Byte) : Nat := (bytes.head?.map (·.toNat)).getD 0

/-- A byte left the receive buffer not empty: the gap interval starts afresh (R164). -/
def State.receiveMore (s : State) (p : Port) (r : Receive) : State :=
  s.modLink p fun l => { l with receive := r, gapAt := some (s.now + Config.gapTicks) }

/-- The receive buffer is emptied and the gap interval abandoned (R163, R164). -/
def State.receiveDone (s : State) (p : Port) : State :=
  s.modLink p fun l => { l with receive := .empty, gapAt := none }

/-- A byte received on RXDn (R163, R164). -/
def State.takeByte (s : State) (p : Port) (b : Byte) : State :=
  match (s.link p).receive with
  | .empty =>
    if 4 ≤ b.toNat ∧ b.toNat ≤ 64 then s.receiveMore p (.part [b]) else s.receiveMore p .discarding
  | .part bytes =>
    let all := bytes ++ [b]
    if all.length = expectedLength all then (s.receiveDone p).frameComplete p (.bytes all)
    else s.receiveMore p (.part all)
  | .discarding => s.receiveMore p .discarding

/-- GAP_EXPIRY: a partial frame is lost; the bytes dropped in DISCARDING complete as a bad frame
(R164). -/
def State.takeGap (s : State) (p : Port) : State :=
  if s.expired (s.link p).gapAt then
    match (s.link p).receive with
    | .empty => s.receiveDone p
    | .part _ => (s.receiveDone p).modLink p fun l => { l with lost := true }
    | .discarding => (s.receiveDone p).frameComplete p .discarded
  else s

/-! ## The end of a reply -/

/-- The transmitter becomes idle; then an awaiting reset takes effect, or a held frame is taken (R167,
R171, R172). -/
def State.afterReply (s : State) (p : Port) : State :=
  let s1 := s.modLink p fun l => { l with sending := none }
  match (s.link p).awaiting with
  | some .port => s1.portReset p
  | some .table => s1.tableReset
  | none =>
    match (s.link p).held with
    | some f => (s1.modLink p fun l => { l with held := none }).takeFrame p f
    | none => s1

/-- REPLY_END: nothing while no reply is being sent. -/
def State.takeReplyEnd (s : State) (p : Port) : State :=
  match (s.link p).sending with
  | some _ => s.afterReply p
  | none => s

/-- The replies owed on a port are sent to their ends: the present one, and that of a held frame. -/
def State.finishReplies (s : State) (p : Port) : State := (s.takeReplyEnd p).takeReplyEnd p

/-! ## A command row -/

/-- The row of a command of a port stands for the take of a frame that carries it. No frame is taken
while a reply is being sent, so the replies owed on the port end first (R165, R167; assumption 4). -/
def commandRow (p : Port) (answer : State → Answer) (s : State) : State :=
  sendReply p (answer (s.finishReplies p))

end Sys2Proof.Machine
end

