-- ==== Sys2Proof/Machine/Clock.lean ====
section
/-!
DEFINITION. The advance of the table clock (01_table_time.md R1) and the events that are decided by its
present value. An event of this value that the queue of commands has not named is taken before the
clock leaves the value; several of them are taken in an order that is a free value (assumption 3).
-/

namespace Sys2Proof.Machine

/-! ## The events outstanding at a value of the clock -/

/-- An event decided by the present value of the clock and not yet taken. -/
inductive Due where
  | gap (p : Port)
  | debounce (n : SwitchNo)
  | comparator (p : Port)
  | lapse (p : Port)
  | dueTime (p : Port) (tag : Byte)
  | kickEnd (c : Chan)
  | senseDelay (c : Chan)
  | maxOn (c : Chan)
  | fold (c : Chan)
  | recycle (c : Chan)
  | cooling (c : Chan)
  | shortCheck (c : Chan)
  | settle
  | railLoss
  | lampPhase (r : Rate)
  | coolDown (l : LampNo)
  | inrush (l : LampNo)
  | lateShort (c : Chan)
  | lateRailLoss
  deriving DecidableEq, Repr

/-- Whether a lamp that blinks at a rate does not have the drive level of the present table time
(R147). -/
def State.phaseDue (s : State) (r : Rate) : Bool :=
  s.lampUnit.lamps.toList.any fun lamp =>
    lamp.blinksAt s.control.mode r && lamp.drive != lamp.driveLevel s.control.mode s.time

/-- The outstanding events of one channel. -/
def State.channelDue (s : State) (c : Chan) : List Due :=
  let ch := s.chan c
  (if kickEndDue s.now ch then [.kickEnd c] else [])
    ++ (if senseDelayDue s.now ch then [.senseDelay c] else [])
    ++ (if maxOnDue s.now ch then [.maxOn c] else [])
    ++ (if foldDue s ch then [.fold c] else [])
    ++ (if recycleDue s ch then [.recycle c] else [])
    ++ (if coolingDue s.now ch then [.cooling c] else [])
    ++ (if s.expired ch.shortAt then [.shortCheck c] else [])

/-- The outstanding events of one port. -/
def State.portDue (s : State) (p : Port) : List Due :=
  (if s.expired (s.link p).gapAt then [.gap p] else [])
    ++ (if s.comparatorDue p then [.comparator p] else [])
    ++ (if s.lapseDue p then [.lapse p] else [])

/-- The outstanding events of one lamp. -/
def State.lampDue (s : State) (l : LampNo) : List Due :=
  (if s.expired (s.lamp l).coolAt then [.coolDown l] else [])
    ++ (if s.expired (s.lamp l).slotAt then [.inrush l] else [])

/-- The outstanding events of the mode controller. -/
def State.controlDue (s : State) : List Due :=
  (if s.settleDue then [.settle] else [])
    ++ (if s.expired s.control.railLossAt then [.railLoss] else [])
    ++ s.control.lateShorts.map .lateShort
    ++ (if s.control.lateRailLoss then [.lateRailLoss] else [])

/-- Every event outstanding at the present value of the clock. -/
def State.dueList (s : State) : List Due :=
  Port.all.flatMap s.portDue
    ++ ((allFin 32).filter fun n => s.expired (s.switchAt n).debounceAt).map .debounce
    ++ (s.table.filter fun e => s.dueTimeDue e.port e.order.tag).map (fun e => .dueTime e.port e.order.tag)
    ++ (allFin 24).flatMap s.channelDue
    ++ s.controlDue
    ++ ((allFin 4).filter s.phaseDue).map .lampPhase
    ++ (allFin 40).flatMap s.lampDue

/-! ## Taking them -/

/-- One more free choice made. -/
def State.choose (s : State) : State := { s with free := s.free + 1 }

/-- The checks left over by an entry to ALARM are abandoned (R139). -/
def State.dropLate (s : State) : State :=
  { s with control := { s.control with lateShorts := [], lateRailLoss := false } }

/-- A short check that expired as ALARM was entered is taken or abandoned, as a free value says (R139). -/
def State.lateShort (s : State) (c : Chan) : State :=
  if Config.takesLateCheck s.free then s.choose.takeShortCheck c
  else
    { s.choose with
      control := { s.control with lateShorts := s.control.lateShorts.filter (· != c) } }

/-- The same of the rail-loss interval (R139). -/
def State.lateRailLoss (s : State) : State :=
  if Config.takesLateCheck s.free then s.choose.takeRailLoss
  else { s.choose with control := { s.control with lateRailLoss := false } }

/-- An outstanding event taken by its owning block. -/
def Due.take (e : Due) (s : State) : State :=
  match e with
  | .gap p => s.takeGap p
  | .debounce n => s.takeDebounce n
  | .comparator p => s.takeComparator p
  | .lapse p => s.takeLapse p
  | .dueTime p tag => s.takeDueTime p tag
  | .kickEnd c => s.takeKickEnd c
  | .senseDelay c => s.takeSenseDelay c
  | .maxOn c => s.takeMaxOn c
  | .fold c => s.takeFold c
  | .recycle c => s.takeRecycle c
  | .cooling c => s.takeCooling c
  | .shortCheck c => s.takeShortCheck c
  | .settle => s.takeSettle
  | .railLoss => s.takeRailLoss
  | .lampPhase r => s.takeLampPhase r
  | .coolDown l => s.takeCoolDown l
  | .inrush l => s.takeInrush l
  | .lateShort c => s.lateShort c
  | .lateRailLoss => s.lateRailLoss

/-- One outstanding event is taken: the only one, or the one a free value picks. -/
def State.takeOneDue (s : State) : State :=
  match s.dueList with
  | [] => s
  | [e] => e.take s
  | e :: es => ((e :: es).getD (Config.pickDue s.free % (es.length + 1)) e).take s.choose

/-- At most n outstanding events are taken. -/
def takeDues : Nat → State → State
  | 0, s => s
  | n + 1, s => takeDues n s.takeOneDue

/-- Every event outstanding at the present value of the clock is taken. -/
def State.settleValue (s : State) : State := takeDues s.dueList.length s

/-- The clock takes its next value (R1). -/
def State.tick (s : State) : State := { s.dropLate with now := s.now + 1 }

/-- TABLE_CLOCK_ADVANCE (R1). -/
def State.advance (s : State) : State := s.settleValue.tick

/-! ## The end of an event -/

/-- An event of a part whose supply is in range, with the ATTN lines decided at its end (R158); without
supply the part does nothing (R173). -/
def event (act : State → State) (s : State) : Host.Outcome State Fault Refusal :=
  if s.powered then .next (act s).decideLines else .next s

/-! ## The rows of the clock -/

/-- TABLE_CLOCK_ADVANCE (R1). -/
def execTableClockAdvance (s : State) : Host.Outcome State Fault Refusal := event State.advance s

/-- COMPARATOR_MATCH (R10). -/
def execComparatorMatch (p : Port) (s : State) : Host.Outcome State Fault Refusal :=
  event (State.takeComparator · p) s

/-- COMPARATOR_LAPSE (R10). -/
def execComparatorLapse (p : Port) (s : State) : Host.Outcome State Fault Refusal :=
  event (State.takeLapse · p) s

end Sys2Proof.Machine
end

