-- ==== Sys2Proof/Machine/CommandRows.lean ====
section
/-!
DEFINITION. The rows of the 29 commands of the ports: each is the take of a frame that carries the
command, with the act of the owning block and the reply (11 R166, R167; assumption 4).
-/

namespace Sys2Proof.Machine

/-- PORT RESET (R171). -/
def execPortReset (p : Port) (s : State) : Host.Outcome State Fault Refusal :=
  event (commandRow p (answerPortReset p)) s

/-- TABLE RESET (R172). -/
def execTableReset (p : Port) (s : State) : Host.Outcome State Fault Refusal :=
  event (commandRow p (answerTableReset p)) s

/-- READ CLOCK (R3). -/
def execReadClock (p : Port) (s : State) : Host.Outcome State Fault Refusal :=
  event (commandRow p (answerReadClock p)) s

/-- SET ALARM TIME (R8). -/
def execSetAlarmTime (p : Port) (time : TableTime) (s : State) : Host.Outcome State Fault Refusal :=
  event (commandRow p (answerSetAlarmTime p time)) s

/-- DISARM (R9). -/
def execDisarm (p : Port) (s : State) : Host.Outcome State Fault Refusal :=
  event (commandRow p (answerDisarm p)) s

/-- POST ORDER (R74). -/
def execPostOrder (p : Port) (order : OrderRecord) (s : State) : Host.Outcome State Fault Refusal :=
  event (commandRow p (answerPostOrder p order)) s

/-- CANCEL ORDER (R104). -/
def execCancelOrder (p : Port) (tag : Byte) (s : State) : Host.Outcome State Fault Refusal :=
  event (commandRow p (answerCancelOrder p tag)) s

/-- READ COMPLETIONS (R99). -/
def execReadCompletions (p : Port) (s : State) : Host.Outcome State Fault Refusal :=
  event (commandRow p (answerReadCompletions p)) s

/-- READ RING (R82). -/
def execReadRing (p : Port) (s : State) : Host.Outcome State Fault Refusal :=
  event (commandRow p (answerReadRing p)) s

/-- WRITE PROFILE (R18). -/
def execWriteProfile (p : Port) (channel : Byte) (profile : ProfileRecord)
    (s : State) : Host.Outcome State Fault Refusal :=
  event (commandRow p (answerWriteProfile p channel profile)) s

/-- READ PROFILE (R21). -/
def execReadProfile (p : Port) (channel : Byte) (s : State) : Host.Outcome State Fault Refusal :=
  event (commandRow p (answerReadProfile p channel)) s

/-- READ CHANNEL (R37). -/
def execReadChannel (p : Port) (channel : Byte) (s : State) : Host.Outcome State Fault Refusal :=
  event (commandRow p (answerReadChannel p channel)) s

/-- CLEAR FAULT (R30). -/
def execClearFault (p : Port) (channel : Byte) (s : State) : Host.Outcome State Fault Refusal :=
  event (commandRow p (answerClearFault p channel)) s

/-- WRITE RAIL (R55). -/
def execWriteRail (p : Port) (budget reserve : Byte) (s : State) : Host.Outcome State Fault Refusal :=
  event (commandRow p (answerWriteRail p budget reserve)) s

/-- READ RAIL (R70). -/
def execReadRail (p : Port) (s : State) : Host.Outcome State Fault Refusal :=
  event (commandRow p (answerReadRail p)) s

/-- SET MODE (R128). -/
def execSetMode (p : Port) (mode : Byte) (s : State) : Host.Outcome State Fault Refusal :=
  event (commandRow p (answerSetMode p mode)) s

/-- CLEAR ALARM (R140). -/
def execClearAlarm (p : Port) (s : State) : Host.Outcome State Fault Refusal :=
  event (commandRow p (answerClearAlarm p)) s

/-- READ ALARM (R141). -/
def execReadAlarm (p : Port) (s : State) : Host.Outcome State Fault Refusal :=
  event (commandRow p (answerReadAlarm p)) s

/-- WRITE SWITCH CONFIG (R112). -/
def execWriteSwitchConfig (p : Port) (switch : Byte) (closedHigh : Bool) (closeTime openTime : Byte)
    (s : State) : Host.Outcome State Fault Refusal :=
  event (commandRow p (answerWriteSwitchConfig p switch closedHigh closeTime openTime)) s

/-- READ SWITCHES (R113). -/
def execReadSwitches (p : Port) (s : State) : Host.Outcome State Fault Refusal :=
  event (commandRow p (answerReadSwitches p)) s

/-- SUBSCRIBE (R114). -/
def execSubscribe (p : Port) (set : BitVec 32) (s : State) : Host.Outcome State Fault Refusal :=
  event (commandRow p (answerSubscribe p set)) s

/-- READ SWITCH EVENTS (R116). -/
def execReadSwitchEvents (p : Port) (s : State) : Host.Outcome State Fault Refusal :=
  event (commandRow p (answerReadSwitchEvents p)) s

/-- WRITE REFLEX (R118). -/
def execWriteReflex (p : Port) (entry : Byte) (fields : ReflexRecord)
    (s : State) : Host.Outcome State Fault Refusal :=
  event (commandRow p (answerWriteReflex p entry fields)) s

/-- READ REFLEX (R126). -/
def execReadReflex (p : Port) (entry : Byte) (s : State) : Host.Outcome State Fault Refusal :=
  event (commandRow p (answerReadReflex p entry)) s

/-- WRITE LAMPS (R144). -/
def execWriteLamps (p : Port) (writes : List CellWrite)
    (s : State) : Host.Outcome State Fault Refusal :=
  event (commandRow p (answerWriteLamps p writes)) s

/-- WRITE LAMP CONFIG (R153). -/
def execWriteLampConfig (p : Port) (flags : BitVec 40) (inrushTime : BitVec 16) (slotLimit : Byte)
    (s : State) : Host.Outcome State Fault Refusal :=
  event (commandRow p (answerWriteLampConfig p flags inrushTime slotLimit)) s

/-- READ LAMPS (R154). -/
def execReadLamps (p : Port) (first : Byte) (s : State) : Host.Outcome State Fault Refusal :=
  event (commandRow p (answerReadLamps p first)) s

/-- WRITE ATTENTION (R161). -/
def execWriteAttention (p : Port) (priorities : Vector Byte 7) (threshold lowMark : Byte)
    (s : State) : Host.Outcome State Fault Refusal :=
  event (commandRow p (answerWriteAttention p priorities threshold lowMark)) s

/-- TAKE EVENT (R159). -/
def execTakeEvent (p : Port) (s : State) : Host.Outcome State Fault Refusal :=
  event (commandRow p (answerTakeEvent p)) s

end Sys2Proof.Machine
end

