-- ==== Sys2Proof/Machine/ExpiryRows.lean ====
section
/-!
DEFINITION. The rows of the expiries of the order pipeline, the channel table, heat accounting, the mode
controller and the lamp unit. An expiry that is not due leaves the state as it is (assumption 2).
-/

namespace Sys2Proof.Machine

/-- DUE_TIME_EXPIRY (R12). -/
def execDueTimeExpiry (p : Port) (tag : Byte) (s : State) : Host.Outcome State Fault Refusal :=
  event (State.takeDueTime · p tag) s

/-- KICK_END_EXPIRY (R23). -/
def execKickEndExpiry (c : Chan) (s : State) : Host.Outcome State Fault Refusal :=
  event (State.takeKickEnd · c) s

/-- SENSE_DELAY_EXPIRY (R28). -/
def execSenseDelayExpiry (c : Chan) (s : State) : Host.Outcome State Fault Refusal :=
  event (State.takeSenseDelay · c) s

/-- MAX_ON_EXPIRY (R25). -/
def execMaxOnExpiry (c : Chan) (s : State) : Host.Outcome State Fault Refusal :=
  event (State.takeMaxOn · c) s

/-- FOLD_EXPIRY (R51). -/
def execFoldExpiry (c : Chan) (s : State) : Host.Outcome State Fault Refusal :=
  event (State.takeFold · c) s

/-- RECYCLE_EXPIRY (R27). -/
def execRecycleExpiry (c : Chan) (s : State) : Host.Outcome State Fault Refusal :=
  event (State.takeRecycle · c) s

/-- COOLING_EXPIRY (R47). -/
def execCoolingExpiry (c : Chan) (s : State) : Host.Outcome State Fault Refusal :=
  event (State.takeCooling · c) s

/-- SHORT_CHECK_EXPIRY (R31, R138). -/
def execShortCheckExpiry (c : Chan) (s : State) : Host.Outcome State Fault Refusal :=
  event (State.takeShortCheck · c) s

/-- SETTLE_EXPIRY (R135). -/
def execSettleExpiry (s : State) : Host.Outcome State Fault Refusal := event State.takeSettle s

/-- RAIL_LOSS_EXPIRY (R136). -/
def execRailLossExpiry (s : State) : Host.Outcome State Fault Refusal := event State.takeRailLoss s

/-- LAMP_PHASE_EVENT (R147). -/
def execLampPhaseEvent (r : Rate) (s : State) : Host.Outcome State Fault Refusal :=
  event (State.takeLampPhase · r) s

/-- COOL_DOWN_EXPIRY (R149). -/
def execCoolDownExpiry (l : LampNo) (s : State) : Host.Outcome State Fault Refusal :=
  event (State.takeCoolDown · l) s

/-- INRUSH_EXPIRY (R151). -/
def execInrushExpiry (l : LampNo) (s : State) : Host.Outcome State Fault Refusal :=
  event (State.takeInrush · l) s

end Sys2Proof.Machine
end

