-- ==== Sys2Proof/Machine/InputRows.lean ====
section
/-!
DEFINITION. The rows of the supply and RESETN (11 R172, 12 R173, R174), of the bytes and gaps of the
links (11 R163, R164, R167) and of the monitored inputs (02 R31, 07 R110, 08 R136). Without supply the
pins alone move (R173); a level that is already there is no change.
-/

namespace Sys2Proof.Machine

/-! ## Supply and RESETN -/

/-- POWER_ON: every block takes its power-on values in one event (R173). -/
def execPowerOn (s : State) : Host.Outcome State Fault Refusal := .next s.powerOn

/-- SUPPLY_FALL: every output is inactive and the part keeps no state (R173). -/
def execSupplyFall (s : State) : Host.Outcome State Fault Refusal := .next s.powerOff

/-- The RESETN level. -/
def State.setResetn (s : State) (high : Bool) : State := { s with pins := { s.pins with resetn := high } }

/-- RESETN_FALL: a table reset at the falling edge (R172); without supply, the level alone. -/
def execResetnFall (s : State) : Host.Outcome State Fault Refusal :=
  if s.pins.resetn then
    if s.powered then .next (s.setResetn false).tableReset.decideLines
    else .next (s.setResetn false)
  else .next s

/-- RESETN_RISE: the level alone (R174). -/
def execResetnRise (s : State) : Host.Outcome State Fault Refusal := .next (s.setResetn true)

/-! ## Links -/

/-- RECEIVE_BYTE (R163). -/
def execReceiveByte (p : Port) (b : Byte) (s : State) : Host.Outcome State Fault Refusal :=
  event (State.takeByte · p b) s

/-- GAP_EXPIRY (R164). -/
def execGapExpiry (p : Port) (s : State) : Host.Outcome State Fault Refusal := event (State.takeGap · p) s

/-- REPLY_END (R167). -/
def execReplyEnd (p : Port) (s : State) : Host.Outcome State Fault Refusal :=
  event (State.takeReplyEnd · p) s

/-! ## Monitored inputs -/

/-- SWITCH_RAW_CHANGE (R110). -/
def execSwitchRawChange (n : SwitchNo) (high : Bool) (s : State) : Host.Outcome State Fault Refusal :=
  if s.pins.switch[n] = high then .next s
  else if s.powered then .next (s.rawChange n high).decideLines
  else .next { s with pins := { s.pins with switch := s.pins.switch.set n high } }

/-- DEBOUNCE_EXPIRY (R111). -/
def execDebounceExpiry (n : SwitchNo) (s : State) : Host.Outcome State Fault Refusal :=
  event (State.takeDebounce · n) s

/-- SENSE_CHANGE (R31). -/
def execSenseChange (c : Chan) (high : Bool) (s : State) : Host.Outcome State Fault Refusal :=
  if s.pins.sense[c] = high then .next s
  else if s.powered then .next (s.takeSense c high).decideLines
  else .next { s with pins := { s.pins with sense := s.pins.sense.set c high } }

/-- RAILOK_CHANGE (R136). -/
def execRailokChange (high : Bool) (s : State) : Host.Outcome State Fault Refusal :=
  if s.pins.railok = high then .next s
  else if s.powered then .next (s.takeRailok high).decideLines
  else .next { s with pins := { s.pins with railok := high } }

end Sys2Proof.Machine
end

