-- ==== Sys2Proof/Machine/Dispatch.lean ====
section
/-!
DEFINITION. The meaning of every command and event: one arm for each row of spec/opcode_table.json.
-/

namespace Sys2Proof.Machine

def exec (i : Instr) (s : State) : Host.Outcome State Fault Refusal :=
  match i with
  | .powerOn => Sys2Proof.Machine.execPowerOn s
  | .supplyFall => Sys2Proof.Machine.execSupplyFall s
  | .resetnFall => Sys2Proof.Machine.execResetnFall s
  | .resetnRise => Sys2Proof.Machine.execResetnRise s
  | .tableClockAdvance => Sys2Proof.Machine.execTableClockAdvance s
  | .receiveByte p b => Sys2Proof.Machine.execReceiveByte p b s
  | .gapExpiry p => Sys2Proof.Machine.execGapExpiry p s
  | .replyEnd p => Sys2Proof.Machine.execReplyEnd p s
  | .switchRawChange n high => Sys2Proof.Machine.execSwitchRawChange n high s
  | .debounceExpiry n => Sys2Proof.Machine.execDebounceExpiry n s
  | .senseChange c high => Sys2Proof.Machine.execSenseChange c high s
  | .railokChange high => Sys2Proof.Machine.execRailokChange high s
  | .comparatorMatch p => Sys2Proof.Machine.execComparatorMatch p s
  | .comparatorLapse p => Sys2Proof.Machine.execComparatorLapse p s
  | .dueTimeExpiry p tag => Sys2Proof.Machine.execDueTimeExpiry p tag s
  | .kickEndExpiry c => Sys2Proof.Machine.execKickEndExpiry c s
  | .senseDelayExpiry c => Sys2Proof.Machine.execSenseDelayExpiry c s
  | .maxOnExpiry c => Sys2Proof.Machine.execMaxOnExpiry c s
  | .foldExpiry c => Sys2Proof.Machine.execFoldExpiry c s
  | .recycleExpiry c => Sys2Proof.Machine.execRecycleExpiry c s
  | .coolingExpiry c => Sys2Proof.Machine.execCoolingExpiry c s
  | .shortCheckExpiry c => Sys2Proof.Machine.execShortCheckExpiry c s
  | .settleExpiry => Sys2Proof.Machine.execSettleExpiry s
  | .railLossExpiry => Sys2Proof.Machine.execRailLossExpiry s
  | .lampPhaseEvent r => Sys2Proof.Machine.execLampPhaseEvent r s
  | .coolDownExpiry l => Sys2Proof.Machine.execCoolDownExpiry l s
  | .inrushExpiry l => Sys2Proof.Machine.execInrushExpiry l s
  | .portReset p => Sys2Proof.Machine.execPortReset p s
  | .tableReset p => Sys2Proof.Machine.execTableReset p s
  | .readClock p => Sys2Proof.Machine.execReadClock p s
  | .setAlarmTime p time => Sys2Proof.Machine.execSetAlarmTime p time s
  | .disarm p => Sys2Proof.Machine.execDisarm p s
  | .postOrder p order => Sys2Proof.Machine.execPostOrder p order s
  | .cancelOrder p tag => Sys2Proof.Machine.execCancelOrder p tag s
  | .readCompletions p => Sys2Proof.Machine.execReadCompletions p s
  | .readRing p => Sys2Proof.Machine.execReadRing p s
  | .writeProfile p channel profile => Sys2Proof.Machine.execWriteProfile p channel profile s
  | .readProfile p channel => Sys2Proof.Machine.execReadProfile p channel s
  | .readChannel p channel => Sys2Proof.Machine.execReadChannel p channel s
  | .clearFault p channel => Sys2Proof.Machine.execClearFault p channel s
  | .writeRail p budget reserve => Sys2Proof.Machine.execWriteRail p budget reserve s
  | .readRail p => Sys2Proof.Machine.execReadRail p s
  | .setMode p mode => Sys2Proof.Machine.execSetMode p mode s
  | .clearAlarm p => Sys2Proof.Machine.execClearAlarm p s
  | .readAlarm p => Sys2Proof.Machine.execReadAlarm p s
  | .writeSwitchConfig p switch closedHigh closeTime openTime => Sys2Proof.Machine.execWriteSwitchConfig p switch closedHigh closeTime openTime s
  | .readSwitches p => Sys2Proof.Machine.execReadSwitches p s
  | .subscribe p set => Sys2Proof.Machine.execSubscribe p set s
  | .readSwitchEvents p => Sys2Proof.Machine.execReadSwitchEvents p s
  | .writeReflex p entry fields => Sys2Proof.Machine.execWriteReflex p entry fields s
  | .readReflex p entry => Sys2Proof.Machine.execReadReflex p entry s
  | .writeLamps p writes => Sys2Proof.Machine.execWriteLamps p writes s
  | .writeLampConfig p flags inrushTime slotLimit => Sys2Proof.Machine.execWriteLampConfig p flags inrushTime slotLimit s
  | .readLamps p first => Sys2Proof.Machine.execReadLamps p first s
  | .writeAttention p priorities threshold lowMark => Sys2Proof.Machine.execWriteAttention p priorities threshold lowMark s
  | .takeEvent p => Sys2Proof.Machine.execTakeEvent p s

end Sys2Proof.Machine
end

