-- ==== Sys2Proof/Safety.lean ====
section
/-!
DEFINITION. What counts as a safe state of the part, in the terms the claims use: the ranges the spec
gives its registers, queues and settings, the tie between a channel's state and its pulse record, the
sum of the draws, and the rule of the ATTN lines.
-/

namespace Sys2Proof.Machine

/-! ## One channel -/

/-- The states of a channel in which a pulse record is present (02, section 2.1). -/
def Phase.hasPulse : Phase → Bool
  | .kick => true
  | .hold => true
  | .fold => true
  | .recycle => true
  | .offline => false
  | .idle => false
  | .faulted => false

/-- A pulse record is present from a grant to the end of the recycle, a fault record while the channel is
FAULTED, and no fault is latched before the end of its pulse (02, section 2.1; R14, R25, R28, R29). -/
def Channel.coherent (ch : Channel) : Prop :=
  ch.pulse.isSome = ch.phase.hasPulse ∧ ch.fault.isSome = (ch.phase == .faulted)
    ∧ ∀ pu, ch.pulse = some pu → ch.phase.isLive = true → pu.latched = none

/-- Every field of a profile within its range (02, section 2.2). -/
abbrev Profile.inRange (pr : Profile) : Prop :=
  (1 ≤ pr.kickTime ∧ pr.kickTime ≤ 1000) ∧ (1 ≤ pr.kickDraw ∧ pr.kickDraw ≤ 64)
    ∧ pr.holdDuty ≤ 16 ∧ pr.foldDuty ≤ 16 ∧ (1 ≤ pr.heatFactor ∧ pr.heatFactor ≤ 16)
    ∧ (1 ≤ pr.cooling ∧ pr.cooling ≤ 255) ∧ (1 ≤ pr.ceiling ∧ pr.ceiling ≤ 16777215)
    ∧ pr.recycle ≤ 10000 ∧ (1 ≤ pr.maxOn ∧ pr.maxOn ≤ 6000000) ∧ pr.senseDelay ≤ 255

/-- A channel's profile in range, its effective fold duty that of the profile, and its heat at most
16,777,215 (R17, R38, R40). -/
abbrev Channel.inRange (ch : Channel) : Prop :=
  ch.profile.inRange ∧ ch.effectiveFold = ch.profile.foldDutyInForce ∧ ch.heat ≤ Config.heatMax

/-! ## One port -/

/-- The queues and settings of a port within their sizes (R77, R81, R95, R115, R161). -/
abbrev PortState.inRange (ps : PortState) : Prop :=
  ps.ring.slots.length ≤ 32 ∧ ps.ring.head < 32 ∧ ps.completions.length ≤ 32
    ∧ ps.switches.events.length ≤ 32 ∧ ps.switches.lost ≤ 255
    ∧ (∀ n ∈ ps.attention.priorities.toList, n ≤ 7) ∧ ps.attention.threshold ≤ 7
    ∧ ps.attention.lowMark ≤ 31

/-! ## The part -/

/-- Every port, channel and setting within its range; at most 16 pending entries of a port (R54, R79,
R139, R153). -/
abbrev State.inRange (s : State) : Prop :=
  (∀ p, (s.port p).inRange) ∧ (∀ c, (s.chan c).inRange) ∧ (∀ p, (s.entriesOf p).length ≤ 16)
    ∧ (s.arbiter.reserve ≤ s.arbiter.budget ∧ s.arbiter.budget ≤ 255)
    ∧ (∀ a, s.control.alarm = some a → a.laterCount ≤ 255)
    ∧ (100 ≤ s.lampUnit.inrushTime ∧ s.lampUnit.inrushTime ≤ 2000)
    ∧ (1 ≤ s.lampUnit.slotLimit ∧ s.lampUnit.slotLimit ≤ 16)

/-- Every channel's pulse and fault records are present in the states the spec gives. -/
def State.coherent (s : State) : Prop := ∀ c, (s.chan c).coherent

/-- The draws of all channels in their present states; those that are not live draw 0 (R57). -/
def State.totalDraw (s : State) : Nat := (s.channels.toList.map Channel.draw).sum

/-- The units in use are the sum of the draws (R57). -/
def State.unitsRight (s : State) : Prop := s.arbiter.units = s.totalDraw

/-- No pulse is live unless the rail is ON, and the rail is OFF in IDLE and ALARM (R132, R134). -/
def State.railRight (s : State) : Prop :=
  (∀ c, (s.chan c).phase.isLive = true → s.control.rail = .on)
    ∧ (s.control.mode = .idle ∨ s.control.mode = .alarm → s.control.rail = .off)

/-- Every ATTN line stands as R158 gives. -/
def State.linesRight (s : State) : Prop :=
  ∀ p, (s.port p).attention.line = lineAsserted s.control.mode (s.port p)

/-! ## Parts of a state that a claim compares -/

/-- A port ready to take a frame at once: the supply is in range and no reply is being sent (R165). -/
abbrev State.ready (s : State) (p : Port) : Prop := s.powered = true ∧ (s.link p).sending = none

/-- The state after a port's reply has been begun: its frame in the transmitter and the lost flag clear;
every ATTN line decided (R158, R167). -/
def State.answered (s : State) (p : Port) (status : Status) (body : List Byte) : State :=
  (s.modPort p fun ps =>
    { ps with
      link :=
        { ps.link with
          lost := false
          sending := some (replyFrame status ps.link.lost s.control.mode body) } }).decideLines

/-! ## Changes of mode -/

/-- A command that changes the table mode to a target in this state: a SET MODE or a CLEAR ALARM that passes
its tests, or an expiry that raises a table alarm (R31, R128, R135, R136, R138, R140). -/
def State.enters (s : State) (i : Instr) (target : Mode) : Prop :=
  (∃ p b, i = .setMode p b ∧ s.ready p ∧ modeOf b = some target ∧ targetPermitted p target = true
    ∧ mayEnter p target s.control.mode = true ∧ s.pins.resetn = true)
  ∨ (∃ p, i = .clearAlarm p ∧ s.ready p ∧ p ≠ .p1 ∧ s.control.mode = .alarm
    ∧ (∀ c : Chan, s.pins.sense[c] = false) ∧ target = .idle)
  ∨ s.powered = true ∧ s.control.mode ≠ .alarm ∧ target = .alarm
    ∧ ((∃ c expiry, i = .shortCheckExpiry c ∧ (s.chan c).shortAt = some expiry ∧ expiry ≤ s.now)
      ∨ (∃ expiry, i = .railLossExpiry ∧ s.control.railLossAt = some expiry ∧ expiry ≤ s.now)
      ∨ ∃ expiry, i = .settleExpiry ∧ s.control.rail = .settling expiry ∧ expiry ≤ s.now
        ∧ s.pins.railok = false)

/-! ## Commands and their rows -/

/-- The lengths of body that section 11.4 gives the code of a command (R166, R169). -/
def Command.bodyLengths : Command → List Nat
  | .portReset => [1]
  | .tableReset => [1]
  | .readClock => [1]
  | .setAlarmTime _ => [4]
  | .disarm => [1]
  | .postOrder _ => [8, 12]
  | .cancelOrder _ => [1]
  | .readCompletions => [1]
  | .readRing => [1]
  | .writeProfile _ _ => [18]
  | .readProfile _ => [1]
  | .readChannel _ => [1]
  | .clearFault _ => [1]
  | .writeRail _ _ => [2]
  | .readRail => [1]
  | .setMode _ => [1]
  | .clearAlarm => [1]
  | .readAlarm => [1]
  | .writeSwitchConfig _ _ _ _ => [4]
  | .readSwitches => [1]
  | .subscribe _ => [4]
  | .readSwitchEvents => [1]
  | .writeReflex _ _ => [7]
  | .readReflex _ => [1]
  | .writeLamps _ => [5, 10, 15, 20, 25, 30, 35, 40, 45, 50, 55, 60]
  | .writeLampConfig _ _ _ => [8]
  | .readLamps _ => [1]
  | .writeAttention _ _ _ => [9]
  | .takeEvent => [1]


/-- The row of a command on a port. -/
def Command.row (c : Command) (p : Port) : Instr :=
  match c with
  | .portReset => .portReset p
  | .tableReset => .tableReset p
  | .readClock => .readClock p
  | .setAlarmTime time => .setAlarmTime p time
  | .disarm => .disarm p
  | .postOrder order => .postOrder p order
  | .cancelOrder tag => .cancelOrder p tag
  | .readCompletions => .readCompletions p
  | .readRing => .readRing p
  | .writeProfile channel profile => .writeProfile p channel profile
  | .readProfile channel => .readProfile p channel
  | .readChannel channel => .readChannel p channel
  | .clearFault channel => .clearFault p channel
  | .writeRail budget reserve => .writeRail p budget reserve
  | .readRail => .readRail p
  | .setMode mode => .setMode p mode
  | .clearAlarm => .clearAlarm p
  | .readAlarm => .readAlarm p
  | .writeSwitchConfig switch closedHigh closeTime openTime =>
    .writeSwitchConfig p switch closedHigh closeTime openTime
  | .readSwitches => .readSwitches p
  | .subscribe set => .subscribe p set
  | .readSwitchEvents => .readSwitchEvents p
  | .writeReflex entry fields => .writeReflex p entry fields
  | .readReflex entry => .readReflex p entry
  | .writeLamps writes => .writeLamps p writes
  | .writeLampConfig flags inrushTime slotLimit => .writeLampConfig p flags inrushTime slotLimit
  | .readLamps first => .readLamps p first
  | .writeAttention priorities threshold lowMark => .writeAttention p priorities threshold lowMark
  | .takeEvent => .takeEvent p

/-- A command that a frame can carry: WRITE LAMPS has 1 to 12 cell writes (R169). -/
def Command.wellFormed : Command → Bool
  | .writeLamps writes => cellWritesOk writes
  | _ => true

end Sys2Proof.Machine
end

