-- ==== Sys2Proof/Certificates/Slice0/Obligations.lean ====
section
/-!
DEFINITION. The statements about the part, from the numbered rules of spec/. A command of a port is stated
for a port that is sending no reply and a part whose supply is in range (`State.ready`); the statements
`ReplyEndTakesHeldFrame` and `UnpoweredPartTakesOnlyLevels` say what happens otherwise.
-/

open Sys2Proof Sys2Proof.Machine

/-! ## Steps, the supply and RESETN -/

/-- A step takes the command at the front of the queue and acts on the state with the queue's rest; with no
command waiting the part idles. The queue and the idle step are the model's choice, assumptions 1 and 15. -/
def Obligations.StepRunsFrontOfQueue : Prop :=
  (∀ (c : Instr) (rest : List Instr) (s : State),
    step { s with pending := c :: rest } = exec c { s with pending := rest })
  ∧ (∀ s : State, s.pending = [] → step s = .next s)

/-- No command stops the part, and none touches the commands that wait. The waiting commands are the model's
own queue (assumption 15, DESIGN CHOICE), and a row whose event is not due completes with the state as it is
(assumption 2, DESIGN CHOICE). -/
def Obligations.EveryCommandCompletes : Prop :=
  ∀ (i : Instr) (s : State), ∃ t, exec i s = .next t ∧ t.pending = s.pending

/-- Power-on gives every block its power-on values in one event: the pins are the board's, and each switch
reads its raw level under the polarity CLOSED LOW (R173, with R2, R7, R16, R38, R71, R92, R109, R127, R142,
R155, R162). The fall of the supply makes every output inactive: no gate, lamp, rail or line is driven and
no reply is sent (R173). That both hold of a part powered or not is the model's choice (assumption 6, DESIGN
CHOICE), as are the model's own `free` and `pending`, which stay (assumptions 22 and 15). -/
def Obligations.SupplyComesAndGoes : Prop :=
  (∀ s : State, exec .powerOn s = .next
    { powered := true
      pins := s.pins
      now := 0
      ports := .const PortState.default
      table := []
      channels := .replicate 24 Channel.default
      arbiter := { budget := 0, reserve := 0, units := 0, list := [], joins := 0 }
      switches := mapTable s.pins.switch fun high =>
        { closedHigh := false, closeTime := 30, openTime := 30, closed := !high, debounceAt := none }
      reflexes := .replicate 16 Reflex.default
      control := Control.default
      lampUnit := LampUnit.default
      free := s.free
      pending := s.pending })
  ∧ (∀ s : State, ∃ t, exec .supplyFall s = .next t ∧ t.powered = false ∧ t.pins = s.pins
    ∧ (∀ c, gateSixteenths t c = 0) ∧ (∀ l, lampOutput t l = 0) ∧ railEnable t = false
    ∧ ∀ p, (t.port p).attention.line = false ∧ (t.link p).sending = none)

/-- The values that the spec gives the part right after power-on (R2, R7, R16, R36, R38, R71, R92, R127,
R142, R155, R162, R170), the default profile field by field (section 2.2). Right after reset all that the
invariants below say holds. -/
def Obligations.ResetValues : Prop :=
  let s := State.reset
  s.time = 0 ∧ s.table = [] ∧ s.control.mode = .idle ∧ s.control.rail = .off ∧ s.control.alarm = none
    ∧ s.arbiter.budget = 0 ∧ s.arbiter.reserve = 0 ∧ s.arbiter.units = 0 ∧ s.arbiter.list = []
    ∧ (∀ p, (s.port p).comparator.value = 0 ∧ (s.port p).comparator.armed = false
      ∧ (s.port p).ring = ⟨0, []⟩ ∧ (s.port p).tail.outcome = .good ∧ (s.port p).completions = []
      ∧ (s.port p).switches = ⟨0, [], 0⟩ ∧ (s.port p).attention.priorities = .replicate 7 0
      ∧ (s.port p).attention.threshold = 0 ∧ (s.port p).attention.lowMark = 0
      ∧ (s.port p).attention.line = false ∧ (s.link p).receive = .empty ∧ (s.link p).sending = none)
    ∧ (∀ c, (s.chan c).phase = .offline ∧ (s.chan c).pulse = none ∧ (s.chan c).fault = none
      ∧ (s.chan c).queue = [] ∧ (s.chan c).heat = 0 ∧ (s.chan c).effectiveFold = 0
      ∧ (s.chan c).profile =
          { enabled := false
            overtimeLatches := false
            posting := ⟨false, false, false⟩
            kickTime := 1
            kickDraw := 1
            holdDuty := 0
            foldDuty := 0
            heatFactor := 1
            cooling := 255
            ceiling := 16777215
            recycle := 0
            maxOn := 6000000
            senseDelay := 0 })
    ∧ (∀ x, (s.reflexAt x).enabled = false ∧ (s.reflexAt x).state = .disarmed
      ∧ (s.reflexAt x).report = Report.clear)
    ∧ (∀ l, (s.lamp l).showCell = none ∧ (s.lamp l).rulesCell = none ∧ (s.lamp l).testCell = none
      ∧ (s.lamp l).inrush = true ∧ (s.lamp l).warm = false ∧ (s.lamp l).drive = 0)
    ∧ s.lampUnit.inrushTime = 400 ∧ s.lampUnit.slotLimit = 4 ∧ s.lampUnit.staging = []
    ∧ s.unitsRight ∧ s.inRange ∧ s.coherent ∧ s.linesRight ∧ s.railRight

/-- Without supply nothing but the input pins moves, until the supply comes or goes: the model's reading of R173,
which gives an unpowered part no state (assumption 5, DEDUCED). -/
def Obligations.UnpoweredPartTakesOnlyLevels : Prop :=
  ∀ (i : Instr) (s t : State), s.powered = false → i ≠ .powerOn → i ≠ .supplyFall →
    exec i s = .next t →
      t = { s with pins := t.pins }
        ∧ (t.pins = s.pins ∨ i = .resetnFall ∨ i = .resetnRise ∨ (∃ n h, i = .switchRawChange n h)
          ∨ (∃ c h, i = .senseChange c h) ∨ ∃ h, i = .railokChange h)

/-- The fall of RESETN resets the table: the clock, the heats, the comparator values, the alarm record and
the filament states stay, everything else takes its default (R2, R7, R53, R142, R155, R172). Its rise is the
level alone, and while it is low a fall is no event (R174; assumption 28). -/
def Obligations.ResetnResetsTheTable : Prop :=
  (∀ s : State, s.powered = true → s.pins.resetn = true →
    ∃ t, exec .resetnFall s = .next t ∧ t.powered = true ∧ t.pins = { s.pins with resetn := false }
      ∧ t.now = s.now ∧ t.table = []
      ∧ (∀ p, t.port p =
          { PortState.default with comparator := ⟨(s.port p).comparator.value, false, false⟩ })
      ∧ (∀ c, t.chan c =
          { Channel.default with heat := (s.chan c).heatNow s.now, heatAt := s.now })
      ∧ t.arbiter = Arbiter.default
      ∧ (∀ n, t.switchAt n = Switch.default s.pins.switch[n])
      ∧ (∀ x, t.reflexAt x = Reflex.default)
      ∧ t.control = { Control.default with alarm := s.control.alarm }
      ∧ t.lampUnit.inrushTime = 400 ∧ t.lampUnit.slotLimit = 4 ∧ t.lampUnit.staging = []
      ∧ (∀ l, t.lamp l = { Lamp.default with
            warm := (s.lamp l).warm
            coolAt := if (s.lamp l).warm then (s.lamp l).coolAt.or (some (s.now + 5000)) else none }))
  ∧ (∀ s : State, exec .resetnRise s = .next { s with pins := { s.pins with resetn := true } }
    ∧ (s.pins.resetn = false → exec .resetnFall s = .next s))

/-! ## The table clock -/

/-- The test "reached" (R4): a table time is reached from its value on for 2,147,483,647 advances, and
unreached for the 2,147,483,648 after them. READ CLOCK, SET ALARM TIME and DISARM, from any port in any table
mode (R3, R8, R9, R10). The CLOCK_ALARM condition begins when the clock comes to an armed comparator's value, and
ends when the value becomes unreached again, 2^31 ticks later; the comparator stays armed (R10). -/
def Obligations.ClockAndComparators : Prop :=
  (∀ (t : TableTime) (k : Nat), k < 2 ^ 32 →
    (reached (t + BitVec.ofNat 32 k) t = true ↔ k ≤ 2147483647))
  ∧ (∀ (s : State) (p : Port) (time : TableTime), s.ready p →
    exec (.readClock p) s = .next (s.answered p .ok
      (timeBytes s.time ++ timeBytes (s.port p).comparator.value
        ++ [if (s.port p).comparator.armed then 1 else 0]))
    ∧ exec (.setAlarmTime p time) s = .next ((s.modPort p fun ps =>
        { ps with
          comparator := ⟨time, true, decide ((s.time - time).toNat < 2 ^ 31)⟩ }).answered p .ok [])
    ∧ exec (.disarm p) s = .next ((s.modPort p fun ps =>
        { ps with comparator := ⟨ps.comparator.value, false, false⟩ }).answered p .ok []))
  ∧ (∀ (s : State) (p : Port), s.powered = true → (s.port p).comparator.armed = true →
    ((s.port p).comparator.alarm = false → (s.port p).comparator.value = s.time →
      exec (.comparatorMatch p) s = .next (s.modPort p fun ps =>
        { ps with comparator := ⟨ps.comparator.value, true, true⟩ }).decideLines)
    ∧ ((s.port p).comparator.alarm = true → (s.time - (s.port p).comparator.value).toNat = 2 ^ 31 →
      exec (.comparatorLapse p) s = .next (s.modPort p fun ps =>
        { ps with comparator := ⟨ps.comparator.value, true, false⟩ }).decideLines))

/-- The clock moves by one at an advance and is moved by nothing else but the supply (R1, R2). Its 0 after a
SUPPLY_FALL and after a POWER_ON of a powered part is the model's choice (assumptions 21 and 6, DESIGN CHOICE).
With no event outstanding at the present value an advance changes the clock alone, but for the checks that an
entry to ALARM left over, which end with the value they belong to (R139; assumption 27, DEDUCED). -/
def Obligations.ClockAdvance : Prop :=
  (∀ (i : Instr) (s t : State), s.powered = true → exec i s = .next t →
    t.now = (if i = .tableClockAdvance then s.now + 1
      else if i = .powerOn ∨ i = .supplyFall then 0 else s.now))
  ∧ (∀ s : State, s.powered = true → s.dueList = [] →
    exec .tableClockAdvance s = .next (State.decideLines
      { s with
        now := s.now + 1
        control := { s.control with lateShorts := [], lateRailLoss := false } }))

/-! ## The links -/

/-- A byte that does not complete a frame: the first byte of a frame opens one if it is a length from 4 to
64 and is dropped otherwise, a later byte joins the frame, and in DISCARDING it is dropped; each starts the
gap interval of 20 ticks afresh (R163, R164). The gap expiry: a frame left in part is lost, and bytes dropped in
DISCARDING complete as a frame that is answered BAD FRAME, held, or lost, by the transmitter and the hold buffer
(R164, R165). -/
def Obligations.BytesAndGaps : Prop :=
  (∀ (s : State) (p : Port) (b : Byte), s.powered = true →
    ((s.link p).receive = .empty →
      exec (.receiveByte p b) s = .next (s.modLink p fun l =>
        { l with
          receive := if 4 ≤ b.toNat ∧ b.toNat ≤ 64 then .part [b] else .discarding
          gapAt := some (s.now + 20) }).decideLines)
    ∧ (∀ n bytes, (s.link p).receive = .part (n :: bytes) → bytes.length + 2 ≠ n.toNat →
      exec (.receiveByte p b) s = .next (s.modLink p fun l =>
        { l with receive := .part (n :: bytes ++ [b]), gapAt := some (s.now + 20) }).decideLines)
    ∧ ((s.link p).receive = .discarding →
      exec (.receiveByte p b) s = .next (s.modLink p fun l =>
        { l with receive := .discarding, gapAt := some (s.now + 20) }).decideLines))
  ∧ (∀ (s : State) (p : Port) (expiry : Nat), s.powered = true →
    (s.link p).gapAt = some expiry → expiry ≤ s.now →
    let s1 := s.modLink p fun l => { l with receive := .empty, gapAt := none }
    (∀ bytes, (s.link p).receive = .part bytes →
      exec (.gapExpiry p) s = .next (s1.modLink p fun l => { l with lost := true }).decideLines)
    ∧ ((s.link p).receive = .discarding → (s.link p).sending = none →
      exec (.gapExpiry p) s = .next (s1.answered p .badFrame []))
    ∧ ((s.link p).receive = .discarding → (s.link p).sending ≠ none →
      exec (.gapExpiry p) s = .next (s1.modLink p fun l =>
        { l with held := l.held.or (some .discarded), lost := l.lost || l.held.isSome }).decideLines))

/-- The last byte of a frame (R165, R166, R167): with no reply being sent, a frame that fails a check is
answered with the status of the check, and a frame that carries a command is the command's row; while a
reply is being sent the frame is held, or lost with FRAMES_LOST set if one is held already. -/
def Obligations.LastByteOfAFrame : Prop :=
  (∀ (s : State) (p : Port) (n b : Byte) (bytes : List Byte), s.ready p →
    (s.link p).receive = .part (n :: bytes) → bytes.length + 2 = n.toNat →
    let s1 := s.modLink p fun l => { l with receive := .empty, gapAt := none }
    (∀ status, checkFrame (.bytes (n :: bytes ++ [b])) = .error status →
      exec (.receiveByte p b) s = .next (s1.answered p status []))
    ∧ ∀ c, checkFrame (.bytes (n :: bytes ++ [b])) = .ok c →
      exec (.receiveByte p b) s = exec (c.row p) s1)
  ∧ (∀ (s : State) (p : Port) (n b : Byte) (bytes : List Byte), s.powered = true →
    (s.link p).receive = .part (n :: bytes) → bytes.length + 2 = n.toNat →
    (s.link p).sending ≠ none →
    exec (.receiveByte p b) s = .next (s.modLink p fun l =>
      { l with
        receive := .empty
        gapAt := none
        held := l.held.or (some (.bytes (n :: bytes ++ [b])))
        lost := l.lost || l.held.isSome }).decideLines)

/-- Every command's frame is read back as that command, so that no bit of a body is dropped, and has the
length its first byte gives, from 4 to 64 (R163, R166, R168, R169 and section 11.4). -/
def Obligations.FrameOfACommandIsRead : Prop :=
  (∀ c : Command, c.wellFormed = true → checkFrame (.bytes c.frame) = .ok c)
  ∧ (∀ c : Command, c.wellFormed = true →
    4 ≤ c.frame.length ∧ c.frame.length ≤ 64 ∧ c.frame.head? = some (byte c.frame.length))

/-- The checks of a frame (R166): a wrong CRC or bytes dropped in DISCARDING give BAD FRAME, an unknown code
gives UNKNOWN COMMAND, and a body of a length that section 11.4 does not give the code gives BAD LENGTH; with a
length that it gives, the frame carries a command of the code. The lengths: 8 or 12 for POST ORDER, 5 for each of
1 to 12 cell writes, 18, 4, 2, 7, 8 or 9 for the other records, and 1 for every other command (R169). -/
def Obligations.FrameChecks : Prop :=
  checkFrame .discarded = .error .badFrame
    ∧ (∀ bytes b, b ≠ crc8 bytes → checkFrame (.bytes (bytes ++ [b])) = .error .badFrame)
    ∧ (∀ (len code : Byte) (body : List Byte), (∀ c : Command, c.code ≠ code) →
      checkFrame (.bytes (closeFrame (len :: code :: body))) = .error .unknownCommand)
    ∧ (∀ (len : Byte) (c : Command) (body : List Byte), body.length ∉ c.bodyLengths →
      checkFrame (.bytes (closeFrame (len :: c.code :: body))) = .error .badLength)
    ∧ (∀ (len : Byte) (c : Command) (body : List Byte), body.length ∈ c.bodyLengths →
      ∃ c' : Command, checkFrame (.bytes (closeFrame (len :: c.code :: body))) = .ok c' ∧ c'.code = c.code)
    ∧ ∀ c : Command, c.bodyLengths =
      if c.code = 0x21 then [8, 12]
      else if c.code = 0x71 then (List.range 12).map fun n => 5 * (n + 1)
      else if c.code = 0x31 then [18]
      else if c.code = 0x12 ∨ c.code = 0x61 ∨ c.code = 0x63 then [4]
      else if c.code = 0x41 then [2]
      else if c.code = 0x65 then [7]
      else if c.code = 0x72 then [8]
      else if c.code = 0x81 then [9]
      else [1]

/-- The CRC (R168): a register that starts at 00h, takes each byte by exclusive-or and is shifted left 8
times, with 07h combined in at each shift whose bit out is 1; frames are checked and replies closed with
it, and over a whole frame it gives 00h. -/
def Obligations.CrcOfFrames : Prop :=
  crc8 [] = 0
    ∧ (∀ r : Byte, crcShift r = if r.getLsbD 7 then (r <<< 1) ^^^ 0x07#8 else r <<< 1)
    ∧ (∀ bytes b, crc8 (bytes ++ [b]) = Nat.iterate crcShift 8 (crc8 bytes ^^^ b))
    ∧ (∀ bytes, crc8 (bytes ++ [crc8 bytes]) = 0)
    ∧ (∀ bytes c, checkFrame (.bytes bytes) = .ok c → crc8 bytes = 0)
    ∧ ∀ status lost mode body, crc8 (replyFrame status lost mode body) = 0

/-- The end of a reply: the transmitter becomes idle, and a held frame is taken then (R165, R167). A command's
row while a reply is being sent acts on the state that the reply's end leaves: the model's choice,
assumption 4. -/
def Obligations.ReplyEndTakesHeldFrame : Prop :=
  (∀ (s : State) (p : Port) (reply : List Byte), s.powered = true →
    (s.link p).sending = some reply → (s.link p).awaiting = none →
    let s1 := s.modLink p fun l => { l with sending := none }
    ((s.link p).held = none → exec (.replyEnd p) s = .next s1.decideLines)
    ∧ ∀ f, (s.link p).held = some f →
      let s2 := s.modLink p fun l => { l with sending := none, held := none }
      (∀ status, checkFrame f = .error status →
        exec (.replyEnd p) s = .next (s2.answered p status []))
      ∧ ∀ c, checkFrame f = .ok c → exec (.replyEnd p) s = exec (c.row p) s2)
  ∧ (∀ (s : State) (p : Port) (c : Command) (reply : List Byte), s.powered = true →
    (s.link p).sending = some reply → (s.link p).awaiting = none → (s.link p).held = none →
    exec (c.row p) s = exec (c.row p) (s.modLink p fun l => { l with sending := none }))

/-- PORT RESET and TABLE RESET are answered before they take effect, and TABLE RESET is refused on P1 (R171,
R172). At the end of the reply TABLE RESET resets the table as the fall of RESETN does, with the RESETN level
as it is. At the end of the reply to PORT RESET the port's live pulses end and recycle without an
owner, its recycles lose their owner, its entries go from the table, the channel queues and the admission list,
with no record (R36, R72, R92); the next member of a queue that lost its front is offered; the comparator keeps its
value and is disarmed, the subscription set and the attention settings stay, and the rest of the port's record takes
its default. With no order of the port in the part and no front that waits to be offered nothing else changes (R7,
R108, R117, R162, R171). -/
def Obligations.ResetsByCommand : Prop :=
  (∀ (s : State) (p : Port), s.ready p →
    exec (.portReset p) s = .next ((s.modLink p fun l => { l with awaiting := some .port }).answered p .ok [])
    ∧ (p = .p1 → exec (.tableReset p) s = .next (s.answered p .notPermitted []))
    ∧ (p ≠ .p1 →
      exec (.tableReset p) s =
        .next ((s.modLink p fun l => { l with awaiting := some .table }).answered p .ok [])))
  ∧ (∀ (s : State) (p : Port) (reply : List Byte), s.powered = true → s.pins.resetn = true →
    (s.link p).sending = some reply → (s.link p).awaiting = some .table →
    ∃ t, exec (.replyEnd p) s = .next t
      ∧ exec .resetnFall s = .next { t with pins := { t.pins with resetn := false } })
  ∧ (∀ (s : State) (p : Port) (reply : List Byte), s.powered = true →
    (s.link p).sending = some reply → (s.link p).awaiting = some .port →
    ∃ t, exec (.replyEnd p) s = .next t ∧ t.entriesOf p = []
      ∧ t.port p = PortState.decideLine s.control.mode
        { PortState.default with
          comparator := ⟨(s.port p).comparator.value, false, false⟩
          switches := ⟨(s.port p).switches.set, [], 0⟩
          attention := { (s.port p).attention with faultEdge := false, modeEdge := false } }
      ∧ (∀ (c : Chan) (pu : Pulse), (s.chan c).pulse = some pu → pu.ofPort p = true →
        ((s.chan c).phase = .recycle →
          (t.chan c).phase = .recycle ∧ (t.chan c).pulse = some { pu with owned := false })
        ∧ ((s.chan c).phase.isLive = true → 0 < pu.recycleLength →
          (t.chan c).phase = .recycle ∧ gateSixteenths t c = 0
            ∧ (t.chan c).pulse = some
              { pu with
                owned := false
                openCheck := if pu.openCheck = OpenCheck.pending then OpenCheck.none else pu.openCheck
                foldAt := none
                recycleAt := some (s.now + pu.recycleLength) }))
      ∧ (s.coherent → (∀ m ∈ s.arbiter.list, (s.chan m.channel).isTestingFront m.owner = true) →
        (∀ c, ∀ q ∈ (s.chan c).queue, ∀ tag, q.owner = .order p tag →
          ∃ e ∈ s.table, e.port = p ∧ e.order.tag = tag ∧ e.order.channel = c) →
        (∀ c, ∀ q ∈ (t.chan c).queue, ∀ tag, q.owner ≠ .order p tag)
          ∧ ∀ m ∈ t.arbiter.list, ∀ tag, m.owner ≠ .order p tag)
      ∧ ∀ (c : Chan) (e : Entry) (q x : QueueMember) (rest : List QueueMember),
        (∀ d, (s.chan d).pulse.any (·.ofPort p) = false) → e ∈ s.table → e.port = p → e.order.channel = c →
        (s.chan c).phase = .idle → (s.chan c).queue = q :: x :: rest → q.owner = .order p e.order.tag →
        (∀ d, ∀ y ∈ (s.chan d).queue, ∀ tag, y.owner = .order p tag → d = c ∧ y = q) →
        x ≠ q → q ∉ rest →
        (∀ d, d ≠ c → (s.chan d).phase ≠ .idle ∨ (s.chan d).queue = []
          ∨ (s.chan d).front ≠ .channelWait) →
        (∀ m ∈ s.arbiter.list, m.channel = c) → s.control.rail = .on →
        s.arbiter.units + (s.chan c).profile.kickDraw ≤ s.arbiter.limit x.owner →
        (s.chan c).profile.kickFits ((s.chan c).heatNow s.now)
          ((s.chan c).profile.kickLength (s.kickShape x.owner).fraction) = true →
        (t.chan c).phase = .kick ∧ (t.chan c).pulse.map (fun pu => (pu.owner, pu.start)) =
          some (x.owner, s.now))
  ∧ (∀ (s : State) (p : Port) (reply : List Byte), s.powered = true →
    (s.link p).sending = some reply → (s.link p).awaiting = some .port →
    s.entriesOf p = [] → s.arbiter.list = [] →
    (∀ c, (s.chan c).queue = [] ∧ (s.chan c).pulse.any (·.ofPort p) = false) →
    exec (.replyEnd p) s = .next (s.modPort p fun ps =>
      { PortState.default with
        comparator := ⟨ps.comparator.value, false, false⟩
        switches := ⟨ps.switches.set, [], 0⟩
        attention := { ps.attention with faultEdge := false, modeEdge := false } }).decideLines)

/-! ## The monitored inputs -/

/-- The monitored inputs. A raw change of a switch away from the debounced state starts the debounce interval
if none runs, and one back to it abandons the interval (R110). While the rail is ON a rise of SENSE on a
channel in IDLE, FAULTED or OFFLINE starts the short check of 50 ticks, and a fall abandons it (R31); a fall
of RAILOK starts the rail-loss interval of 20 ticks, and a rise abandons it (R136). -/
def Obligations.MonitoredInputs : Prop :=
  (∀ (s : State) (n : SwitchNo) (high : Bool), s.powered = true → s.pins.switch[n] ≠ high →
    let sw := s.switchAt n
    let time := if sw.closed then sw.openTime else sw.closeTime
    let s1 := { s with pins := { s.pins with switch := s.pins.switch.set n high } }
    ((sw.closedHigh == high) = sw.closed →
      exec (.switchRawChange n high) s =
        .next (s1.modSwitch n fun sw => { sw with debounceAt := none }).decideLines)
    ∧ ((sw.closedHigh == high) ≠ sw.closed → sw.debounceAt ≠ none →
      exec (.switchRawChange n high) s = .next s1.decideLines)
    ∧ ((sw.closedHigh == high) ≠ sw.closed → sw.debounceAt = none → 0 < time →
      exec (.switchRawChange n high) s =
        .next (s1.modSwitch n fun sw => { sw with debounceAt := some (s.now + time) }).decideLines))
  ∧ (∀ (s : State) (c : Chan), s.powered = true → s.control.rail = .on →
    (s.pins.sense[c] = false →
      let s1 := { s with pins := { s.pins with sense := s.pins.sense.set c true } }
      exec (.senseChange c true) s = .next (State.decideLines
        (if (s.chan c).phase = .idle ∨ (s.chan c).phase = .faulted ∨ (s.chan c).phase = .offline then
          s1.modChan c fun ch => { ch with shortAt := some (s.now + 50) }
        else s1)))
    ∧ (s.pins.sense[c] = true → s.control.lateShorts = [] →
      exec (.senseChange c false) s = .next (State.decideLines
        ({ s with pins := { s.pins with sense := s.pins.sense.set c false } }.modChan c fun ch =>
          { ch with shortAt := none }))))
  ∧ (∀ s : State, s.powered = true →
    (s.pins.railok = true → exec (.railokChange false) s = .next (State.decideLines
      { s with
        pins := { s.pins with railok := false }
        control :=
          if s.control.rail = .on then { s.control with railLossAt := some (s.now + 20) }
          else s.control }))
    ∧ (s.pins.railok = false → s.control.lateRailLoss = false →
      exec (.railokChange true) s = .next (State.decideLines
        { s with
          pins := { s.pins with railok := true }
          control := { s.control with railLossAt := none } })))

/-- The debounce expiry of a switch that no reflex entry is concerned with: the debounced state changes,
and each port whose subscription set holds the switch gets a record with the table time, or counts it lost
when its queue holds 32 (R111, R114, R115); nothing else changes. -/
def Obligations.DebounceExpiryIsAnEdge : Prop :=
  ∀ (s : State) (n : SwitchNo) (expiry : Nat), s.powered = true →
    (s.switchAt n).debounceAt = some expiry → expiry ≤ s.now →
    let close := !(s.switchAt n).closed
    (∀ x, (s.reflexAt x).concerned n close = false) →
    ∃ t, exec (.debounceExpiry n) s = .next t
      ∧ t.switches = s.switches.set n { s.switchAt n with closed := close, debounceAt := none }
      ∧ t = State.decideLines { s with switches := t.switches, ports := t.ports }
      ∧ ∀ p, t.port p = PortState.decideLine s.control.mode
          { s.port p with
            switches :=
              let sub := (s.port p).switches
              if sub.set.getLsbD n.val then
                if sub.events.length < 32 then
                  { sub with
                    events := sub.events ++
                      [⟨n, close, s.time, if sub.lost = 0 then none else some sub.lost, none⟩]
                    lost := 0 }
                else { sub with lost := min 255 (sub.lost + 1) }
              else sub }

/-! ## Lamps -/

/-- The composite of a lamp is its highest counted cell that is LIT, TEST above RULES above SHOW, TEST being
counted in SERVICE alone (R145). The half-period of rate r is 1,250 × 2^r ticks, a cell is in its lit phase
by the parity of the phase index, and the drive is the composite's level while it is lit (R146). A lamp phase
event gives every lamp that blinks at the rate the drive level of the present table time, and leaves every other
lamp as it was (R147, R148); that the row does so also when the phase index has not changed is the model's
(assumption 14, DEDUCED). -/
def Obligations.BlinkAndPhaseEvents : Prop :=
  ((∀ (lamp : Lamp) (mode : Mode) (time : TableTime) (layer : Layer) (light : Light),
    (lamp.composite mode = none → lamp.driveLevel mode time = 0)
    ∧ (lamp.composite mode = some (layer, light) →
      let index := time.toNat / (1250 * 2 ^ light.rate.val)
      lamp.driveLevel mode time =
        match light.pattern with
        | .steady => light.level
        | .blinkA => if index % 2 = 0 then light.level else 0
        | .blinkB => if index % 2 = 1 then light.level else 0))
  ∧ (∀ (lamp : Lamp) (mode : Mode),
    (∀ light, mode = .service → lamp.testCell = some light → lamp.composite mode = some (.test, light))
    ∧ (∀ light, (mode ≠ .service ∨ lamp.testCell = none) → lamp.rulesCell = some light →
      lamp.composite mode = some (.rules, light))
    ∧ (∀ light, (mode ≠ .service ∨ lamp.testCell = none) → lamp.rulesCell = none →
      lamp.showCell = some light → lamp.composite mode = some (.showLayer, light))
    ∧ ((mode ≠ .service ∨ lamp.testCell = none) → lamp.rulesCell = none → lamp.showCell = none →
      lamp.composite mode = none)))
  ∧ (∀ (s : State) (r : Rate), s.powered = true → ∃ t, exec (.lampPhaseEvent r) s = .next t
    ∧ (∀ l, (s.lamp l).blinksAt s.control.mode r = true →
      (t.lamp l).drive = (s.lamp l).driveLevel s.control.mode s.time)
    ∧ (∀ l, (s.lamp l).blinksAt s.control.mode r = false → t.lamp l = s.lamp l)
    ∧ t = State.decideLines { s with lampUnit := t.lampUnit })

/-- The expiry of a lamp's cool-down makes it COLD and changes nothing else (R149). The expiry of an inrush
interval frees the lamp's slot; with one lamp staged and the slots below their limit then, that lamp leaves
the list, takes a slot for the inrush time and becomes WARM (R151, R152). Serving the staging list ends with
no lamp staged or the slots at their limit, and grants none beyond it (R151, R153). -/
def Obligations.LampExpiries : Prop :=
  (∀ (s : State) (l : LampNo) (expiry : Nat), s.powered = true →
    (s.lamp l).coolAt = some expiry → expiry ≤ s.now →
    exec (.coolDownExpiry l) s =
      .next (s.modLamp l fun lamp => { lamp with warm := false, coolAt := none }).decideLines)
  ∧ (∀ (s : State) (l : LampNo) (expiry : Nat), s.powered = true →
    (s.lamp l).slotAt = some expiry → expiry ≤ s.now →
    let s1 := s.modLamp l fun lamp => { lamp with slotAt := none }
    (s.lampUnit.staging = [] → exec (.inrushExpiry l) s = .next s1.decideLines)
    ∧ ∀ m, s.lampUnit.staging = [m] → s1.lampUnit.slotsInUse < s.lampUnit.slotLimit →
      exec (.inrushExpiry l) s = .next (State.decideLines
        ({ s1 with lampUnit := { s1.lampUnit with staging := [] } }.modLamp m fun lamp =>
          { lamp with slotAt := some (s.now + s.lampUnit.inrushTime), warm := true })))
  ∧ (∀ s : State,
    (s.serveStaging.lampUnit.staging = [] ∨
      s.serveStaging.lampUnit.slotLimit ≤ s.serveStaging.lampUnit.slotsInUse)
    ∧ (s.lampUnit.slotsInUse ≤ s.lampUnit.slotLimit →
      s.serveStaging.lampUnit.slotsInUse ≤ s.lampUnit.slotLimit))

/-! ## Heat -/

/-- An update made within a state changes no later heat (R43): any elapsed time split in two gives what one
update gives, at both clamps, and so a READ CHANNEL or a refused WRITE PROFILE leaves the heat of every
later moment as it was. -/
def Obligations.UpdatesDoNotChangeLaterHeat : Prop :=
  (∀ (heat t1 t2 : Nat) (n : Int), heat ≤ 16777215 →
    heatAfter (heatAfter heat n t1) n t2 = heatAfter heat n (t1 + t2))
  ∧ (∀ (heat t : Nat), heat ≤ 16777215 → heatAfter heat 0 t = heat)
  ∧ (∀ (n : Int) (t : Nat), n < 0 → heatAfter 0 n t = 0)
  ∧ (∀ (n : Int) (t : Nat), 0 < n → heatAfter 16777215 n t = 16777215)
  ∧ ∀ (s t : State) (p : Port) (c : Chan) (r : ProfileRecord) (later : Nat), s.ready p → s.inRange →
    (s.chan c).heatAt ≤ s.now → s.now ≤ later →
    (exec (.readChannel p (byte c.val)) s = .next t → (t.chan c).heatNow later = (s.chan c).heatNow later)
    ∧ ((answerWriteProfile p (byte c.val) r s).status ≠ .ok →
      exec (.writeProfile p (byte c.val) r) s = .next t →
      (t.chan c).heatNow later = (s.chan c).heatNow later)

/-- The effective fold duty (R40): the largest duty up to the smaller of the fold and hold duties whose draw,
rounded up, heats less than the coil cools; so the net rate in FOLD is below 0. It is computed from the
clamped record in every accepted WRITE PROFILE, READ PROFILE reports it beside the record, a power-on and a
table reset set it to 0, and the FOLD draw is computed from it. -/
def Obligations.EffectiveFoldDuty : Prop :=
  (∀ pr : Profile, 0 < pr.cooling →
    let d := pr.foldDutyInForce
    let cools := fun d => ceilDiv (pr.kickDraw * d) 16 * pr.heatFactor < pr.cooling
    d ≤ min pr.foldDuty pr.holdDuty ∧ cools d
      ∧ (∀ d', d' ≤ min pr.foldDuty pr.holdDuty → cools d' → d' ≤ d)
      ∧ (∀ d', d' ≤ d → cools d') ∧ pr.netRateAt (pr.drawAt d) < 0)
  ∧ (∀ (s t : State) (p : Port) (c : Chan) (r : ProfileRecord), s.ready p →
    (answerWriteProfile p (byte c.val) r s).status = .ok →
    exec (.writeProfile p (byte c.val) r) s = .next t →
    (t.chan c).effectiveFold = (clampProfile r).foldDutyInForce)
  ∧ (∀ (s : State) (p : Port) (c : Chan), s.ready p →
    exec (.readProfile p (byte c.val)) s = .next (s.answered p .ok
      (byte c.val :: (s.chan c).profile.bytes ++ [byte (s.chan c).effectiveFold])))
  ∧ (∀ c, (State.reset.chan c).effectiveFold = 0 ∧ Profile.default.foldDutyInForce = 0)
  ∧ (∀ (s : State) (c : Chan), (s.tableReset.chan c).effectiveFold = 0)
  ∧ ∀ ch : Channel, ch.drawIn .fold = ceilDiv (ch.profile.kickDraw * ch.effectiveFold) 16

/-- The profile test (R45): a record fails exactly when its kick heats and a full kick from heat 0 passes its
ceiling; a failing record is refused with PROFILE CANNOT FIRE whatever the present heat; a record that
passes lets every kick pass the kick test from heat 0 and bounds every cooling wait; the default passes. -/
def Obligations.ProfileThatCanFire : Prop :=
  (∀ pr : Profile, pr.canFire = false ↔
    (0 < (pr.kickDraw * pr.heatFactor : Nat) - (pr.cooling : Int)
      ∧ (pr.ceiling : Int) < ((pr.kickDraw * pr.heatFactor : Nat) - (pr.cooling : Int)) * pr.kickTime))
  ∧ (∀ (s : State) (p : Port) (c : Chan) (r : ProfileRecord), s.ready p → p ≠ .p1 →
    configAllowed s.control.mode p = true → (s.chan c).phase.busy = false →
    (s.chan c).heatNow s.now ≤ (clampProfile r).ceiling → (clampProfile r).canFire = false →
    exec (.writeProfile p (byte c.val) r) s = .next (s.answered p .profileCannotFire []))
  ∧ (∀ (pr : Profile) (k : Nat), pr.canFire = true → 1 ≤ k → k ≤ 16 →
    pr.kickFits 0 (pr.kickLength k) = true
      ∧ ∀ heat, pr.coolingWait heat (pr.kickLength k) ≤ ceilDiv heat pr.cooling)
  ∧ Profile.default.canFire = true

/-- A kick that passes the kick test takes no heat above the ceiling, at no tick of it (R44, R46). A kick
lasts from 1 to 1000 ticks, the whole kick time at a kick fraction of 16, and is the least length that is
not short of the fraction (R22). A hold takes no heat above the ceiling before its fold time, which is the last
tick that does not; a hold whose net rate is 0 or below never folds and never heats; and heat does not rise in
FOLD (R44, R50). -/
def Obligations.KickAndHoldStayUnderTheCeiling : Prop :=
  ((∀ (pr : Profile) (heat length t : Nat), pr.inRange → heat ≤ pr.ceiling →
    pr.kickFits heat length = true → t ≤ length → heatAfter heat pr.kickRate t ≤ pr.ceiling)
  ∧ (∀ (pr : Profile) (k : Nat), pr.inRange → 1 ≤ k → k ≤ 16 →
    1 ≤ pr.kickLength k ∧ pr.kickLength k ≤ 1000 ∧ pr.kickLength 16 = pr.kickTime
      ∧ 16 * (pr.kickLength k - 1) < pr.kickTime * k ∧ pr.kickTime * k ≤ 16 * pr.kickLength k))
  ∧ (∀ (pr : Profile) (heat : Nat), pr.inRange → heat ≤ pr.ceiling →
    (∀ fold t, pr.foldTime heat = some fold → t ≤ fold →
      heatAfter heat (pr.netRateAt pr.holdDraw) t ≤ pr.ceiling)
    ∧ (∀ fold, pr.foldTime heat = some fold → pr.ceiling < 16777215 →
      pr.ceiling < heatAfter heat (pr.netRateAt pr.holdDraw) (fold + 1))
    ∧ (pr.foldTime heat = none → ∀ t, heatAfter heat (pr.netRateAt pr.holdDraw) t ≤ heat)
    ∧ ∀ t, heatAfter heat (pr.netRateAt (pr.drawAt pr.foldDutyInForce)) t ≤ heat)

/-- The cooling wait of a member that fails the kick test (R47): at least 1 tick; after it the same test
passes, and after one tick less it does not. -/
def Obligations.CoolingWaitIsTheLeast : Prop :=
  ∀ (pr : Profile) (heat length : Nat), pr.inRange → pr.canFire = true → length ≤ pr.kickTime →
    heat ≤ 16777215 → pr.kickFits heat length = false →
    let wait := pr.coolingWait heat length
    1 ≤ wait ∧ pr.kickFits (heatAfter heat (-(pr.cooling : Int)) wait) length = true
      ∧ pr.kickFits (heatAfter heat (-(pr.cooling : Int)) (wait - 1)) length = false

/-! ## Rail admission -/

/-- An examination of the admission list (R62, R63, R64): it grants members from the front, each on its own
channel, until the list is empty, the rail is not ON or the front does not fit; every granted member's kick
has started, the others stand as they were, and the units in use do not pass the budget. -/
def Obligations.ExaminationRunsToItsEnd : Prop :=
  ∀ s : State, (∀ m ∈ s.arbiter.list, (s.chan m.channel).phase = .idle) →
    (s.arbiter.list.map Member.channel).Nodup →
    let t := s.examine
    (t.arbiter.list = [] ∨ t.control.rail ≠ .on
      ∨ ∃ m rest, t.arbiter.list = m :: rest ∧ t.arbiter.limit m.owner < t.arbiter.units + m.draw)
    ∧ (∃ granted, s.arbiter.list = granted ++ t.arbiter.list
      ∧ ∀ m ∈ granted, (t.chan m.channel).phase = .kick
        ∧ (t.chan m.channel).pulse.map (·.owner) = some m.owner)
    ∧ (∀ m ∈ t.arbiter.list, t.chan m.channel = s.chan m.channel)
    ∧ ((∀ m ∈ s.arbiter.list, m.draw = (s.chan m.channel).profile.kickDraw) →
      s.arbiter.units ≤ s.arbiter.budget → t.arbiter.units ≤ t.arbiter.budget)

/-- Places in the two queues: a member of the admission list stands behind every member of higher or equal
priority (R60), a member of a channel queue ahead of those of lower priority and, at equal priority, of
later arrival (R32); both stay in order. -/
def Obligations.PlacesInTheQueues : Prop :=
  (∀ (m : Member) (l : List Member),
    insertMember m l =
      l.takeWhile (fun x => decide (m.priority ≤ x.priority)) ++
        m :: l.dropWhile fun x => decide (m.priority ≤ x.priority))
  ∧ (∀ (m : Member) (l : List Member), l.Pairwise (fun a b => b.priority ≤ a.priority) →
    (insertMember m l).Pairwise fun a b => b.priority ≤ a.priority)
  ∧ ∀ (q : QueueMember) (l : List QueueMember),
    let behind := fun a b : QueueMember =>
      b.priority < a.priority ∨ (a.priority = b.priority ∧ a.arrival ≤ b.arrival)
    l.Pairwise behind →
      (insertQueue q l).Pairwise behind ∧ (insertQueue q l).Perm (q :: l)

/-- WRITE RAIL (R55): refused on P1, and from P0 in SERVICE and from P2 outside IDLE and SERVICE; with an
empty admission list it writes the budget and the reserve, clamped to it. READ RAIL (R70) reports the
arbiter and up to 8 members of the list. With the rail ON it gives LIMIT for any front that is not too large: a
front that fits stands in no list after an examination (R63), and what is reported of one is the model's
(assumption 25, DEDUCED). -/
def Obligations.RailCommands : Prop :=
  ∀ (s : State) (p : Port) (budget reserve : Byte), s.ready p →
    let mode := s.control.mode
    (p = .p1 → exec (.writeRail p budget reserve) s = .next (s.answered p .notPermitted []))
    ∧ (p = .p0 ∧ mode = .service ∨ p = .p2 ∧ mode ≠ .idle ∧ mode ≠ .service →
      exec (.writeRail p budget reserve) s = .next (s.answered p .wrongMode []))
    ∧ (p = .p0 ∧ mode ≠ .service ∨ p = .p2 ∧ (mode = .idle ∨ mode = .service) → s.arbiter.list = [] →
      let v := min reserve.toNat budget.toNat
      exec (.writeRail p budget reserve) s =
        .next (State.answered
          { s with arbiter := { s.arbiter with budget := budget.toNat, reserve := v } }
          p .ok [budget, byte v]))
    ∧ exec (.readRail p) s = .next (s.answered p .ok
      ([byte s.arbiter.budget, byte s.arbiter.reserve, byte s.arbiter.units, s.control.rail.code,
          byte s.arbiter.list.length,
          (match s.arbiter.list with
            | [] => 0
            | m :: _ =>
              if s.arbiter.limit m.owner < m.draw then 3
              else if s.control.rail = .on then 2 else 1),
          byte (min 8 s.arbiter.list.length)]
        ++ (s.arbiter.list.take 8).flatMap fun m =>
          [byte m.channel.val] ++ m.owner.bytes ++ [byte m.priority, byte m.draw]))

/-! ## Orders -/

/-- POST ORDER (R73, R74, R75, R77): the tests in their order, with the ports each mode allows, and the order kept
in the ring, in its working values, when the port already has 16 pending entries. -/
def Obligations.PostOrderTestsAndRing : Prop :=
  ∀ (s : State) (p : Port) (r : OrderRecord), s.ready p →
    let refused := fun status => exec (.postOrder p r) s = .next (s.answered p status [])
    (channelOf r.channel = none ∨ orderKindOf r.kind = none → refused .badOrder)
    ∧ ∀ c kind, channelOf r.channel = some c → orderKindOf r.kind = some kind →
      let pr := (s.chan c).profile
      let ring := (s.port p).ring
      let mode := s.control.mode
      let allowed := (mode = .attract ∨ mode = .game) ∧ p ≠ .p2 ∨ mode = .tilt ∧ p = .p0
        ∨ mode = .service ∧ p = .p2
      let o : Order :=
        { tag := r.tag
          channel := c
          kind := kind
          priority := max 1 r.priority.toNat
          fraction :=
            if kind = .train ∨ r.fraction.toNat = 0 then 16 else min 16 r.fraction.toNat
          count := if kind = .train then r.count.toNat else 1
          gap := if kind = .train then r.gap.toNat else 0
          follow := r.follow
          quiet := r.quiet
          due := r.due }
      if kind = .train ∧ r.count = 0 then refused .badOrder
      else if pr.posting.get p = false then refused .notPermitted
      else if pr.enabled = false then refused .channelOffline
      else if ¬allowed then refused .wrongMode
      else if ring.slots.any (fun slot => slot.order.tag == r.tag)
          ∨ s.table.any (fun e => e.port == p && e.order.tag == r.tag) then refused .tagInUse
      else if 32 ≤ ring.slots.length then refused .ringFull
      else 16 ≤ (s.entriesOf p).length →
        exec (.postOrder p r) s =
          .next ((s.modPort p fun ps =>
            { ps with ring := ⟨ring.head, ring.slots ++ [⟨o, none⟩]⟩ }).answered p .ok
              [byte ((ring.head + ring.slots.length) % 32)])

/-- An accepted PULSE order on an IDLE channel with an empty queue, room on the rail and room for the heat is
taken and kicks in the same event (R22, R33, R46, R57, R62, R74, R79, R86). -/
def Obligations.PostedPulseKicksAtOnce : Prop :=
  ∀ (s : State) (p : Port) (r : OrderRecord) (c : Chan), s.ready p →
    channelOf r.channel = some c → r.kind = 0 → r.follow = false → r.due = none →
    (s.chan c).profile.posting.get p = true → (s.chan c).profile.enabled = true →
    ((s.control.mode = .attract ∨ s.control.mode = .game) ∧ p ≠ .p2 ∨ s.control.mode = .tilt ∧ p = .p0
      ∨ s.control.mode = .service ∧ p = .p2) → s.tagLive p r.tag = false →
    (s.port p).ring.slots = [] → (s.entriesOf p).length < 16 →
    (s.chan c).phase = .idle → (s.chan c).queue = [] →
    s.arbiter.list = [] → s.control.rail = .on →
    s.arbiter.units + (s.chan c).profile.kickDraw ≤ s.arbiter.budget - s.arbiter.reserve →
    let k := if r.fraction.toNat = 0 then 16 else min 16 r.fraction.toNat
    let length := ceilDiv ((s.chan c).profile.kickTime * k) 16
    (s.chan c).profile.kickFits ((s.chan c).heatNow s.now) length = true →
    ∃ t, exec (.postOrder p r) s = .next t
      ∧ (t.chan c).phase = .kick ∧ gateSixteenths t c = 16 ∧ (t.chan c).queue = []
      ∧ (t.chan c).pulse = some
          { owner := .order p r.tag
            owned := true
            kind := .plain
            kickLength := length
            start := s.now
            recycleLength := (s.chan c).profile.recycle
            released := false
            latched := none
            openCheck := if 0 < (s.chan c).profile.senseDelay then .pending else .none
            foldAt := none
            recycleAt := none }
      ∧ t.arbiter.units = s.arbiter.units + (s.chan c).profile.kickDraw ∧ t.arbiter.list = []
      ∧ (∀ d, d ≠ c → t.chan d = s.chan d)
      ∧ (∃ e, t.table = s.table ++ [e] ∧ e.port = p ∧ e.order.tag = r.tag ∧ e.stage = .running
        ∧ e.steps = 1 ∧ e.firstKick = some s.time ∧ e.railWaited = false ∧ e.heatWaited = false)
      ∧ (t.port p).ring = ⟨((s.port p).ring.head + 1) % 32, []⟩
      ∧ (t.port p).tail = ⟨some r.tag, .live⟩

/-- The end of an order (R90, R93, R95, R98, R102): a quiet order's entry is freed; any other order's record
enters the completion queue and its entry is freed, or, with no room or a record held, is held with the
entry in DONE_HELD. The chain tail, if it is this order, takes the outcome. -/
def Obligations.EndOfAnOrder : Prop :=
  ∀ (s : State) (e : Entry) (status : EndStatus),
    let p := e.port
    let tail := if (s.port p).tail.entry = some e.order.tag then
        ⟨none, if status = .done ∨ status = .released then .good else .bad⟩
      else (s.port p).tail
    let record : Completion :=
      { tag := e.order.tag
        channel := e.order.channel
        kind := e.order.kind
        status := status
        steps := e.steps
        firstKick := e.firstKick
        endTime := s.time
        heatWaited := e.heatWaited
        railWaited := e.railWaited
        folded := e.folded }
    let room := (s.port p).completions.length < 32 ∧ (s.port p).held = []
    (e.order.quiet = true →
      s.conclude e status =
        (s.modPort p fun ps => { ps with tail := tail }).freeEntry p e.order.tag)
    ∧ (e.order.quiet = false → room →
      s.conclude e status =
        (s.modPort p fun ps =>
          { ps with tail := tail, completions := ps.completions ++ [record] }).freeEntry p e.order.tag)
    ∧ (e.order.quiet = false → ¬room →
      s.conclude e status =
        (s.modPort p fun ps => { ps with tail := tail, held := ps.held ++ [record] }).modEntry p
          e.order.tag fun e => { e with stage := .doneHeld })

/-- The take of a posted order and its chain step (R11, R79, R80, R101): with the follow flag set it waits in
FOLLOWING behind a LIVE tail and ends CHAIN_BROKEN behind a BAD one; without it, or behind a GOOD tail, it enters
SCHEDULED until its due time, or arrives at its channel queue. It becomes the tail. The end of an order and its
follower (R102): a bad outcome breaks the follower, whose record comes next; a good one releases it to its
due-time test. -/
def Obligations.TakesAndChains : Prop :=
  (∀ (s : State) (p : Port) (r : OrderRecord) (c : Chan) (kind : OrderKind), s.ready p →
    channelOf r.channel = some c → orderKindOf r.kind = some kind →
    (answerPostOrder p r s).status = .ok → (s.port p).ring.slots = [] → (s.entriesOf p).length < 16 →
    let o : Order :=
      { tag := r.tag
        channel := c
        kind := kind
        priority := max 1 r.priority.toNat
        fraction := if kind = .train ∨ r.fraction.toNat = 0 then 16 else min 16 r.fraction.toNat
        count := if kind = .train then r.count.toNat else 1
        gap := if kind = .train then r.gap.toNat else 0
        follow := r.follow
        quiet := r.quiet
        due := r.due }
    let entry := fun (stage : Stage) (arrival : Option Nat) =>
      ({ port := p
         order := o
         stage := stage
         steps := 0
         arrival := arrival
         firstKick := none
         lastCause := none
         stopAfterStep := false
         heatWaited := false
         railWaited := false
         folded := false } : Entry)
    let tail := (s.port p).tail
    let head := (s.port p).ring.head
    let took := fun (e : Entry) =>
      { s with table := s.table ++ [e] }.modPort p fun ps =>
        { ps with ring := ⟨(head + 1) % 32, []⟩, tail := ⟨some r.tag, .live⟩ }
    let answered := fun (t : State) =>
      exec (.postOrder p r) s = .next (t.answered p .ok [byte (head % 32)])
    (∀ n, r.follow = true → tail = ⟨some n, .live⟩ → answered (took (entry (.following n) none)))
    ∧ (r.follow = true → tail.outcome = .bad → (∀ q ∈ (s.chan c).queue, q.owner ≠ .order p r.tag) →
      (∀ f ∈ s.table, f.follows p r.tag = false) →
      answered ((took (entry .queued none)).conclude (entry .queued none) .chainBroken))
    ∧ (r.follow = false ∨ tail.outcome = .good →
      (∀ due, r.due = some due → reached s.time due = false →
        answered (took (entry (.scheduled (s.now + (due - s.time).toNat)) none)))
      ∧ ((∀ due, r.due = some due → reached s.time due = true) → (s.chan c).phase.busy = true →
        let a := (s.chan c).arrivals
        answered ((took (entry .queued (some a))).modChan c fun ch =>
          { ch with
            arrivals := a + 1
            queue := insertQueue ⟨.order p r.tag, o.priority, a⟩ ch.queue }))))
  ∧ ∀ (s : State) (e f : Entry), e ∈ s.table → f ∈ s.table → f.port = e.port →
    f.stage = .following e.order.tag →
    (∀ a ∈ s.table, ∀ b ∈ s.table, a.port = b.port → a.order.tag = b.order.tag → a = b) →
    (∀ g ∈ s.table, g.follows e.port e.order.tag = true → g = f) →
    (∀ g ∈ s.table, g.follows e.port f.order.tag = false) → (s.port e.port).ring.slots = [] →
    let p := e.port
    ((∃ n, e.stage = .following n) ∨ (∃ n, e.stage = .scheduled n) → s.ready p →
      (∀ q ∈ (s.chan e.order.channel).queue, q.owner ≠ .order p e.order.tag) →
      (∀ q ∈ (s.chan f.order.channel).queue, q.owner ≠ .order p f.order.tag) →
      exec (.cancelOrder p e.order.tag) s =
        .next (((s.conclude e .cancelled).conclude f .chainBroken).answered p .ok []))
    ∧ ∀ (pu : Pulse), s.powered = true → e.stage = .running → e.order.kind = .pulse →
      let c := e.order.channel
      let d := f.order.channel
      (s.chan c).phase = .kick → (s.chan c).pulse = some pu → pu.owner = .order p e.order.tag →
      pu.owned = true → pu.kind = .plain → pu.openCheck ≠ .pending →
      pu.start + pu.kickLength ≤ s.now → 0 < pu.recycleLength → s.arbiter.list = [] →
      (∀ q ∈ (s.chan c).queue, q.owner ≠ .order p e.order.tag) →
      (∀ due, f.order.due = some due → reached s.time due = false →
        ∃ t, exec (.kickEndExpiry c) s = .next t ∧ t.entry p f.order.tag =
          some { f with stage := .scheduled (s.now + (due - s.time).toNat) })
      ∧ ((∀ due, f.order.due = some due → reached s.time due = true) → (s.chan d).phase.busy = true →
        ∃ t, exec (.kickEndExpiry c) s = .next t
          ∧ t.entry p f.order.tag =
            some { f with stage := .queued, arrival := some (s.chan d).arrivals }
          ∧ (t.chan d).queue = insertQueue
            ⟨.order p f.order.tag, f.order.priority, (s.chan d).arrivals⟩ (s.chan d).queue)

/-- The due-time expiry (R12, R35): the order arrives at its channel; while a pulse or recycle is on it joins
the channel queue with the next arrival position, and at an OFFLINE or FAULTED channel it ends. -/
def Obligations.DueTimeExpiryArrives : Prop :=
  ∀ (s : State) (e : Entry) (expiry : Nat), s.powered = true → e ∈ s.table →
    (∀ e' ∈ s.table, e'.port = e.port → e'.order.tag = e.order.tag → e' = e) →
    e.stage = .scheduled expiry → expiry ≤ s.now →
    let p := e.port
    let tag := e.order.tag
    let c := e.order.channel
    let a := (s.chan c).arrivals
    ((s.chan c).phase.busy = true →
      exec (.dueTimeExpiry p tag) s = .next (State.decideLines
        ((s.modEntry p tag fun e => { e with stage := .queued, arrival := some a }).modChan c fun ch =>
          { ch with
            arrivals := a + 1
            queue := insertQueue ⟨.order p tag, e.order.priority, a⟩ ch.queue })))
    ∧ ∀ status, ((s.chan c).phase = .offline ∧ status = .channelOffline
        ∨ (s.chan c).phase = .faulted ∧ status = .channelFault) →
      (s.chan c).queue = [] → (s.port p).ring.slots = [] →
      (∀ f ∈ s.table, f.follows p tag = false) →
      exec (.dueTimeExpiry p tag) s = .next (s.conclude e status).decideLines

/-- CANCEL ORDER (R78, R104, R105, R106): an order in the ring is marked, a tag that is not live is not found, a
running PULSE is too late, a running TRAIN stops after its step, a running HOLD in its kick is released, and in
HOLD or FOLD its pulse ends at once and the order ends RELEASED. An order that waits ends CANCELLED: one in
FOLLOWING or SCHEDULED is in no queue; one in CHANNEL_WAIT leaves its channel queue; the testing front also loses
its cooling wait (HEAT_WAIT) or its place in the admission list (ADMISSION), and the next member is offered. -/
def Obligations.CancelOrderByPlace : Prop :=
  ∀ (s : State) (p : Port) (tag : Byte), s.ready p →
    let inRing := (s.port p).ring.slots.any fun slot => slot.order.tag == tag
    (inRing = true →
      exec (.cancelOrder p tag) s = .next ((s.modPort p fun ps =>
        { ps with
          ring :=
            { ps.ring with
              slots := ps.ring.slots.map fun slot =>
                if slot.order.tag = tag then { slot with mark := slot.mark.or (some .cancelled) }
                else slot } }).answered p .ok []))
    ∧ (inRing = false → s.liveEntry p tag = none →
      exec (.cancelOrder p tag) s = .next (s.answered p .notFound []))
    ∧ (∀ e, inRing = false → s.liveEntry p tag = some e →
      let c := e.order.channel
      (e.stage = .running → e.order.kind = .pulse →
        exec (.cancelOrder p tag) s = .next (s.answered p .tooLate []))
      ∧ (e.stage = .running → e.order.kind = .train →
        exec (.cancelOrder p tag) s = .next ((s.modEntry p tag fun e =>
          { e with stopAfterStep := true }).answered p .ok []))
      ∧ (e.stage = .running → e.order.kind = .hold → (s.chan c).phase = .kick →
        exec (.cancelOrder p tag) s = .next ((s.modChan c fun ch =>
          { ch with pulse := ch.pulse.map fun pu => { pu with released := true } }).answered p .ok [])))
    ∧ ∀ e, inRing = false → s.liveEntry p tag = some e → (s.port p).ring.slots = [] →
      (∀ f ∈ s.table, f.follows p tag = false) →
      let c := e.order.channel
      let own : Owner := .order p tag
      (∀ pu : Pulse, e.stage = .running → e.order.kind = .hold →
        (s.chan c).phase = .hold ∨ (s.chan c).phase = .fold → (s.chan c).pulse = some pu → pu.owner = own →
        pu.owned = true → 0 < pu.recycleLength → s.entry p tag = some e →
        (∀ q ∈ (s.chan c).queue, q.owner ≠ own) → s.arbiter.list = [] →
        exec (.cancelOrder p tag) s = .next (((((
          { s with arbiter := { s.arbiter with units := s.arbiter.units - (s.chan c).draw } }.modChan c
            fun ch =>
              { ch with
                phase := .recycle
                heat := ch.heatNow s.now
                heatAt := s.now
                pulse := some
                  { pu with
                    owned := false
                    openCheck := if pu.openCheck = OpenCheck.pending then OpenCheck.none else pu.openCheck
                    foldAt := none
                    recycleAt := some (s.now + pu.recycleLength) } }).modEntry p tag fun e =>
          { e with lastCause := some .release }).conclude e .released)).answered p .ok []))
      ∧ ((∃ n, e.stage = .following n) ∨ (∃ n, e.stage = .scheduled n) →
        (∀ q ∈ (s.chan c).queue, q.owner ≠ own) →
        exec (.cancelOrder p tag) s = .next ((s.conclude e .cancelled).answered p .ok []))
      ∧ ∀ (before behind : List QueueMember) (q : QueueMember), e.stage = .queued → q.owner = own →
        (s.chan c).queue = before ++ q :: behind → (∀ x ∈ before ++ behind, x.owner ≠ own) →
        let left := s.modChan c fun ch => { ch with queue := before ++ behind }
        ((s.chan c).phase ≠ .idle ∨ before ≠ [] →
          exec (.cancelOrder p tag) s = .next ((left.conclude e .cancelled).answered p .ok []))
        ∧ ((s.chan c).phase = .idle → before = [] →
          let gone :=
            { left with
              arbiter := { s.arbiter with list := s.arbiter.list.filter fun m => m.channel ≠ c } }.modChan c
                fun ch => { ch with front := .channelWait }
          s.control.rail ≠ .on ∨ gone.arbiter.list = [] →
          (behind = [] →
            exec (.cancelOrder p tag) s = .next ((gone.conclude e .cancelled).answered p .ok []))
          ∧ ∀ x rest, behind = x :: rest → s.sizeOk c x.owner = true → s.control.rail ≠ .on →
            let length := (s.chan c).profile.kickLength (s.kickShape x.owner).fraction
            ∃ t, exec (.cancelOrder p tag) s = .next t ∧ (t.chan c).queue = x :: rest
              ∧ (t.chan c).front =
                (if (s.chan c).profile.kickFits ((s.chan c).heatNow s.now) length then .admission
                else .heatWait (s.now +
                  (s.chan c).profile.coolingWait ((s.chan c).heatNow s.now) length))
              ∧ t.arbiter.list =
                (if (s.chan c).profile.kickFits ((s.chan c).heatNow s.now) length then
                  insertMember ⟨c, x.owner, x.priority, (s.chan c).profile.kickDraw, s.arbiter.joins⟩
                    gone.arbiter.list
                else gone.arbiter.list)
              ∧ t.liveEntry p tag = none)

/-- READ COMPLETIONS (R99) removes up to 4 records, oldest first; then, with no order in the ring, held records
enter the queue up to 32, oldest first, and their entries are freed (R97). READ RING (R82) reports the ring, the
port's entries and the records. -/
def Obligations.CompletionAndRingReads : Prop :=
  ∀ (s : State) (p : Port), s.ready p →
    let ps := s.port p
    (ps.held = [] →
      exec (.readCompletions p) s = .next ((s.modPort p fun ps =>
        { ps with completions := ps.completions.drop 4 }).answered p .ok
          ([byte (min 4 ps.completions.length), byte (ps.completions.length - 4), 0]
            ++ (ps.completions.take 4).flatMap Completion.bytes)))
    ∧ (ps.ring.slots = [] →
      let kept := ps.completions.drop 4
      let moved := ps.held.take (32 - kept.length)
      let rest := ps.held.drop (32 - kept.length)
      exec (.readCompletions p) s = .next (({ s with
          table := s.table.filter fun e =>
            !(e.port == p && moved.any fun r => r.tag == e.order.tag) }.modPort p fun ps =>
        { ps with completions := kept ++ moved, held := rest }).answered p .ok
          ([byte (min 4 ps.completions.length), byte (kept ++ moved).length, byte rest.length]
            ++ (ps.completions.take 4).flatMap Completion.bytes)))
    ∧ exec (.readRing p) s = .next (s.answered p .ok
      [byte ps.ring.slots.length, byte ps.ring.head, byte (32 - ps.ring.slots.length),
        byte (s.entriesOf p).length, byte ps.completions.length, byte ps.held.length])

/-! ## Pulses -/

/-- The ends of a reflex entry's pulse, with an empty admission list and a recycle to come: the kick end of a
plain pulse is COMPLETE (R23), a low SENSE at the open check's sample is OPEN COIL and latches the fault
(R28), the max-on expiry is OVERTIME and latches one if the profile says so (R25). Heat is brought up to
date, the draw leaves the units in use, the recycle interval starts and the entry reports the cause
(R15, R27, R42, R57, R123). A high SENSE at the sample ends the check alone. -/
def Obligations.PulseEnds : Prop :=
  ∀ (s : State) (c : Chan) (pu : Pulse) (x : ReflexNo), s.powered = true →
    (s.chan c).pulse = some pu → pu.owner = .reflex x → pu.owned = true → 0 < pu.recycleLength →
    s.arbiter.list = [] →
    let ended := fun (cause : Cause) (latched : Option (FaultKind × Nat)) (check : OpenCheck) =>
      State.decideLines
        (({ s with arbiter := { s.arbiter with units := s.arbiter.units - (s.chan c).draw } }.modChan c
          fun ch =>
            { ch with
              phase := .recycle
              heat := ch.heatNow s.now
              heatAt := s.now
              pulse := some
                { pu with
                  latched := latched
                  openCheck := check
                  foldAt := none
                  recycleAt := some (s.now + pu.recycleLength) } }).modReflex x fun r =>
          { r with report := { r.report with lastEnd := some cause } })
    ((s.chan c).phase = .kick → pu.kind = .plain → pu.openCheck ≠ .pending →
      pu.start + pu.kickLength ≤ s.now →
      exec (.kickEndExpiry c) s = .next (ended .complete pu.latched pu.openCheck))
    ∧ ((s.chan c).phase = .kick → pu.openCheck = .pending →
      pu.start + (s.chan c).profile.senseDelay ≤ s.now → s.pins.sense[c] = false →
      exec (.senseDelayExpiry c) s = .next (ended .openCoil (some (.openCoil, s.now)) .made))
    ∧ ((s.chan c).phase = .kick → pu.openCheck = .pending →
      pu.start + (s.chan c).profile.senseDelay ≤ s.now → s.pins.sense[c] = true →
      exec (.senseDelayExpiry c) s = .next (s.modChan c fun ch =>
        { ch with pulse := some { pu with openCheck := .made } }).decideLines)
    ∧ ((s.chan c).phase = .kick ∨ (s.chan c).phase = .hold ∨ (s.chan c).phase = .fold →
      pu.start + (s.chan c).profile.maxOn ≤ s.now →
      exec (.maxOnExpiry c) s = .next (ended .overtime
        (if (s.chan c).profile.overtimeLatches then some (.overtime, s.now) else pu.latched)
        (if pu.openCheck = .pending then .none else pu.openCheck)))

/-- The kick end of a PULSE order whose record has room: the coil recycles, the order is DONE with one record
in the completion queue, and its entry is freed (R23, R87, R90, R93, R94, R95). -/
def Obligations.PulseOrderIsDone : Prop :=
  ∀ (s : State) (c : Chan) (pu : Pulse) (e : Entry), s.powered = true →
    (s.chan c).phase = .kick → (s.chan c).pulse = some pu → (s.chan c).queue = [] →
    pu.owner = .order e.port e.order.tag → pu.owned = true → pu.kind = .plain →
    pu.openCheck ≠ .pending → pu.start + pu.kickLength ≤ s.now → 0 < pu.recycleLength →
    s.arbiter.list = [] → s.table = [e] → e.order.channel = c → e.order.kind = .pulse →
    e.order.quiet = false → e.stage = .running → (s.port e.port).ring.slots = [] →
    (s.port e.port).completions.length < 32 → (s.port e.port).held = [] →
    ∃ t, exec (.kickEndExpiry c) s = .next t
      ∧ (t.chan c).phase = .recycle ∧ gateSixteenths t c = 0
      ∧ (t.chan c).pulse.map (·.recycleAt) = some (some (s.now + pu.recycleLength))
      ∧ t.arbiter.units = s.arbiter.units - (s.chan c).profile.kickDraw
      ∧ t.table = []
      ∧ (t.port e.port).completions = (s.port e.port).completions ++
          [{ tag := e.order.tag
             channel := c
             kind := .pulse
             status := .done
             steps := e.steps
             firstKick := e.firstKick
             endTime := s.time
             heatWaited := e.heatWaited
             railWaited := e.railWaited
             folded := e.folded }]
      ∧ (∀ d, d ≠ c → t.chan d = s.chan d)

/-- Hold and fold of a reflex entry's pulse, with an empty admission list: the kick end of an unreleased hold
pulse with a hold duty enters HOLD, with the fold interval its heat gives; the fold expiry enters FOLD, and
the entry is told. The units follow the draws (R23, R24, R50, R51, R57). -/
def Obligations.HoldAndFold : Prop :=
  ∀ (s : State) (c : Chan) (pu : Pulse) (x : ReflexNo), s.powered = true →
    (s.chan c).pulse = some pu → pu.owner = .reflex x → pu.owned = true → s.arbiter.list = [] →
    let pr := (s.chan c).profile
    let heat := (s.chan c).heatNow s.now
    let moved := fun (phase : Phase) (draw : Nat) (foldAt : Option Nat) =>
      { s with arbiter := { s.arbiter with units := s.arbiter.units + draw - (s.chan c).draw } }.modChan c
        fun ch =>
          { ch with
            phase := phase
            heat := heat
            heatAt := s.now
            pulse := some { pu with foldAt := foldAt } }
    ((s.chan c).phase = .kick → pu.kind = .hold → pu.released = false → 0 < pr.holdDuty →
      pu.openCheck ≠ .pending → pu.start + pu.kickLength ≤ s.now →
      (∀ fold, pr.foldTime heat = some fold → 0 < fold →
        exec (.kickEndExpiry c) s =
          .next (moved .hold (ceilDiv (pr.kickDraw * pr.holdDuty) 16) (some (s.now + fold))).decideLines)
      ∧ (pr.foldTime heat = none →
        exec (.kickEndExpiry c) s =
          .next (moved .hold (ceilDiv (pr.kickDraw * pr.holdDuty) 16) pu.foldAt).decideLines))
    ∧ ∀ expiry, (s.chan c).phase = .hold → pu.foldAt = some expiry → expiry ≤ s.now →
      exec (.foldExpiry c) s = .next (State.decideLines
        ((moved .fold (ceilDiv (pr.kickDraw * (s.chan c).effectiveFold) 16) none).modReflex x fun r =>
          { r with report := { r.report with folded := true } }))

/-- The recycle expiry after a reflex entry's pulse, with no short check or with one started for a SENSE that is
high (R31). The pulse record goes and the channel is IDLE; the entry leaves ACTIVE (R27, R123). The front of its
queue is then offered (R33): too large, a sole reflex request is dropped; failing the kick test it waits for its
cooling; with room on an ON rail it kicks in this event. With a fault latched the channel is FAULTED with the
fault's record and the CHANNEL_FAULT edge is set on every port; every request in its queue is dropped, every order
in it ends CHANNEL_FAULT in the order of the takes, and the queue is empty (R29, R96). -/
def Obligations.RecycleExpiryEnds : Prop :=
  ∀ (s : State) (c : Chan) (pu : Pulse) (x : ReflexNo) (expiry : Nat), s.powered = true →
    (s.chan c).phase = .recycle → (s.chan c).pulse = some pu → pu.owner = .reflex x →
    pu.owned = true → pu.recycleAt = some expiry → expiry ≤ s.now →
    let rest := fun (r : Reflex) =>
      if r.isArmed s.control.mode then
        if r.action = .flip ∧ (s.switchAt r.switch).closed = true then ReflexState.spent else .armed
      else .disarmed
    let pr := (s.chan c).profile
    let heat := (s.chan c).heatNow s.now
    let short :=
      if s.control.rail = .on ∧ s.pins.sense[c] = true then some (s.now + 50) else (s.chan c).shortAt
    let idled := (s.modChan c fun ch =>
        { ch with
          phase := .idle, heat := heat, heatAt := s.now, pulse := none, shortAt := short }).modReflex x
      fun r => { r with state := rest r }
    (pu.latched = none → (s.chan c).queue = [] →
      exec (.recycleExpiry c) s = .next idled.decideLines)
    ∧ (∀ q behind, pu.latched = none → (s.chan c).queue = q :: behind → (s.chan c).front = .channelWait →
      let length := pr.kickLength (s.kickShape q.owner).fraction
      (∀ y, behind = [] → q.owner = .reflex y → s.arbiter.budget < pr.kickDraw →
        (∀ m ∈ s.arbiter.list, m.channel ≠ c) →
        ∃ t, exec (.recycleExpiry c) s = .next t ∧ (t.chan c).queue = [] ∧ (t.chan c).phase = .idle
          ∧ (t.reflexAt y).report.drop = some .oversize)
      ∧ (s.sizeOk c q.owner = true → pr.kickFits heat length = false →
        ∃ t, exec (.recycleExpiry c) s = .next t ∧ (t.chan c).queue = q :: behind
          ∧ (t.chan c).front = .heatWait (s.now + pr.coolingWait heat length)
          ∧ (∀ d, d ≠ c → t.chan d = s.chan d) ∧ t.arbiter = s.arbiter)
      ∧ (s.arbiter.units + pr.kickDraw ≤ s.arbiter.limit q.owner → pr.kickFits heat length = true →
        s.control.rail = .on → s.arbiter.list = [] →
        ∃ t, exec (.recycleExpiry c) s = .next t ∧ (t.chan c).phase = .kick
          ∧ (t.chan c).queue = behind.filter (fun x => x.owner ≠ q.owner)
          ∧ (t.chan c).pulse.map (fun pu => (pu.owner, pu.start, pu.kickLength)) =
            some (q.owner, s.now, length)
          ∧ t.arbiter.units = s.arbiter.units + pr.kickDraw
          ∧ (∀ d, d ≠ c → t.chan d = s.chan d)))
    ∧ ∀ kind moment, pu.latched = some (kind, moment) → (∀ p, (s.port p).ring.slots = []) →
      (∀ q ∈ (s.chan c).queue, ∀ p tag, q.owner = .order p tag →
        ∃ e, s.liveEntry p tag = some e ∧ e.order.channel = c) →
      ∃ t, exec (.recycleExpiry c) s = .next t
        ∧ t.chan c =
          { s.chan c with
            phase := .faulted
            heat := heat
            heatAt := s.now
            pulse := none
            queue := []
            shortAt := short
            fault := some ⟨kind, stampOf moment, .reflex x⟩ }
        ∧ (∀ p, (t.port p).attention.faultEdge = true)
        ∧ ((s.chan c).queue = [] ∨ (∀ e ∈ s.table, ∀ n, e.stage ≠ .following n) →
          (∀ d, d ≠ c → t.chan d = s.chan d)
          ∧ ((∀ q ∈ (s.chan c).queue, q.owner ≠ .reflex x) →
            t.reflexAt x = { s.reflexAt x with state := rest (s.reflexAt x) }))
        ∧ ((∀ e ∈ s.table, ∀ n, e.stage ≠ .following n) →
          ∀ q ∈ (s.chan c).queue, ∀ y, q.owner = .reflex y →
          let r := s.reflexAt y
          t.reflexAt y =
            { r with
              state :=
                if r.isArmed s.control.mode then if r.action = .flip then .spent else .armed
                else .disarmed
              report := { r.report with drop := some .channelFault } })
        ∧ (∀ q ∈ (s.chan c).queue, ∀ p tag, q.owner = .order p tag → t.liveEntry p tag = none)
        ∧ ((∀ e ∈ s.table, ∀ n, e.stage ≠ .following n) →
          (s.table.map fun e => (e.port, e.order.tag)).Nodup →
          ∀ p, (t.port p).completions ++ (t.port p).held =
            (s.port p).completions ++ (s.port p).held ++
              (s.table.filter fun e => e.port == p && e.live && !e.order.quiet &&
                (s.chan c).queue.any fun q => q.owner == .order e.port e.order.tag).map fun e =>
                  e.record .channelFault s.time)

/-- The recycle expiry after a step of a TRAIN (R27, R88, R89). With a fault latched the order ends CHANNEL_FAULT;
after an overtime it ends OVERTIME, with its stop asked for CANCELLED, with its count done DONE. Otherwise it
returns to its channel queue at the arrival position of its first arrival, and the front of the queue is offered:
with room on an ON rail the next step kicks in this event, with the order's gap added to its recycle. -/
def Obligations.TrainStepsAtTheRecycleExpiry : Prop :=
  ∀ (s : State) (c : Chan) (pu : Pulse) (e : Entry) (expiry : Nat), s.powered = true →
    (s.chan c).phase = .recycle → (s.chan c).pulse = some pu → pu.owner = .order e.port e.order.tag →
    pu.owned = true → pu.recycleAt = some expiry → expiry ≤ s.now →
    s.entry e.port e.order.tag = some e → e.stage = .running → e.order.kind = .train →
    e.order.channel = c →
    let p := e.port
    let pr := (s.chan c).profile
    let heat := (s.chan c).heatNow s.now
    let short :=
      if s.control.rail = .on ∧ s.pins.sense[c] = true then some (s.now + 50) else (s.chan c).shortAt
    let alone := (s.chan c).queue = [] ∧ (s.port p).ring.slots = []
      ∧ ∀ f ∈ s.table, f.follows p e.order.tag = false
    (∀ kind moment, pu.latched = some (kind, moment) → alone →
      exec (.recycleExpiry c) s = .next (State.decideLines
        (((s.modChan c fun ch =>
          { ch with
            phase := .faulted
            heat := heat
            heatAt := s.now
            pulse := none
            shortAt := short
            fault := some ⟨kind, stampOf moment, pu.owner⟩ }).setFaultEdges).conclude e .channelFault)))
    ∧ (pu.latched = none →
      let idled := s.modChan c fun ch =>
        { ch with phase := .idle, heat := heat, heatAt := s.now, pulse := none, shortAt := short }
      (alone → e.lastCause = some .overtime ∨ e.stopAfterStep = true ∨ e.order.count ≤ e.steps →
        exec (.recycleExpiry c) s = .next (State.decideLines (idled.conclude e
          (if e.lastCause = some .overtime then .overtime
          else if e.stopAfterStep = true then .cancelled else .done))))
      ∧ ∀ a, e.lastCause ≠ some .overtime → e.stopAfterStep = false → e.steps < e.order.count →
        e.arrival = some a →
        let back : List QueueMember := insertQueue ⟨pu.owner, e.order.priority, a⟩ (s.chan c).queue
        (s.control.rail ≠ .on → (∀ q, back.head? = some q → s.sizeOk c q.owner = true) →
          ∃ t, exec (.recycleExpiry c) s = .next t ∧ (t.chan c).phase = .idle ∧ (t.chan c).queue = back
            ∧ ∃ e', t.liveEntry p e.order.tag = some e' ∧ e'.stage = .queued ∧ e'.steps = e.steps
              ∧ e'.arrival = some a)
        ∧ ((s.chan c).queue = [] → (s.chan c).front = .channelWait → s.control.rail = .on →
          s.arbiter.list = [] →
          s.arbiter.units + pr.kickDraw ≤ s.arbiter.budget - s.arbiter.reserve →
          pr.kickFits heat pr.kickTime = true →
          ∃ t, exec (.recycleExpiry c) s = .next t ∧ (t.chan c).phase = .kick
            ∧ (t.chan c).queue = []
            ∧ (t.chan c).pulse.map (fun pu => (pu.owner, pu.kind, pu.start, pu.kickLength, pu.recycleLength))
              = some (pu.owner, .plain, s.now, pr.kickTime, pr.recycle + e.order.gap)
            ∧ t.arbiter.units = s.arbiter.units + pr.kickDraw
            ∧ ∃ e', t.liveEntry p e.order.tag = some e' ∧ e'.stage = .running
              ∧ e'.steps = e.steps + 1 ∧ e'.firstKick = e.firstKick.or (some s.time)))

/-- The cooling expiry of a reflex request alone at the front, with an empty admission list (R46, R47, R60,
R62, R64): the kick test is made again; a request that passes joins the list, and kicks at once if the rail
is ON and it fits, or waits for rail; a request that fails waits for its cooling again. -/
def Obligations.CoolingExpiryTestsAgain : Prop :=
  ∀ (s : State) (c : Chan) (q : QueueMember) (x : ReflexNo) (expiry : Nat), s.powered = true →
    (s.chan c).phase = .idle → (s.chan c).queue = [q] → q.owner = .reflex x →
    (s.chan c).front = .heatWait expiry → expiry ≤ s.now → s.arbiter.list = [] →
    let pr := (s.chan c).profile
    let heat := (s.chan c).heatNow s.now
    let warm := fun (front : Front) => s.modChan c fun ch =>
      { ch with heat := heat, heatAt := s.now, front := front }
    (pr.kickFits heat (pr.kickLength 16) = false →
      exec (.coolingExpiry c) s = .next (State.decideLines
        ((warm (.heatWait (s.now + pr.coolingWait heat (pr.kickLength 16)))).modReflex x fun r =>
          { r with report := { r.report with heatWaited := true } })))
    ∧ (pr.kickFits heat (pr.kickLength 16) = true →
        s.control.rail ≠ .on ∨ s.arbiter.budget < s.arbiter.units + pr.kickDraw →
      exec (.coolingExpiry c) s = .next (State.decideLines
        ({ warm .admission with
          arbiter :=
            { s.arbiter with
              list := [⟨c, .reflex x, q.priority, pr.kickDraw, s.arbiter.joins⟩]
              joins := s.arbiter.joins + 1 } }.modReflex x fun r =>
          { r with report := { r.report with railWaited := true } })))
    ∧ (pr.kickFits heat (pr.kickLength 16) = true → s.control.rail = .on →
        s.arbiter.units + pr.kickDraw ≤ s.arbiter.budget →
      ∃ t, exec (.coolingExpiry c) s = .next t ∧ (t.chan c).phase = .kick
        ∧ (t.chan c).queue = [] ∧ (t.chan c).heat = heat ∧ t.arbiter.list = []
        ∧ t.arbiter.units = s.arbiter.units + pr.kickDraw
        ∧ (t.chan c).pulse.map (fun pu => (pu.owner, pu.start, pu.kickLength)) =
          some (.reflex x, s.now, pr.kickTime)
        ∧ (t.reflexAt x).state = .active)

/-! ## Alarms and modes -/

/-- A table alarm (R31, R134 to R138): the expiry of a short check, of the rail-loss interval, or of the
settle interval with RAILOK low, in any mode but ALARM, enters ALARM with a fresh record of the cause and the
table time, turns the rail OFF and sets the MODE_CHANGE edge of every port. The settle expiry with RAILOK
high turns the rail ON (R135, R137); with an empty admission list and no SENSE high nothing else changes. -/
def Obligations.AlarmsAndTheRail : Prop :=
  (∀ s : State, s.powered = true → s.control.mode ≠ .alarm →
    let alarmed := fun (i : Instr) (cause : AlarmCause) =>
      ∃ t, exec i s = .next t ∧ t.control.mode = .alarm ∧ t.control.rail = .off
        ∧ railEnable t = false ∧ t.control.alarm = some ⟨cause, s.time, none, 0⟩
        ∧ (∀ p, (t.port p).attention.modeEdge = true)
        ∧ ∀ c, (t.chan c).profile = (s.chan c).profile
    (∀ c expiry, (s.chan c).shortAt = some expiry → expiry ≤ s.now →
      alarmed (.shortCheckExpiry c) (.short c))
    ∧ (∀ expiry, s.control.railLossAt = some expiry → expiry ≤ s.now →
      alarmed .railLossExpiry .railLost)
    ∧ ∀ expiry, s.control.rail = .settling expiry → expiry ≤ s.now → s.pins.railok = false →
      alarmed .settleExpiry .railNoRise)
  ∧ (∀ (s : State) (expiry : Nat), s.powered = true → s.control.rail = .settling expiry →
    expiry ≤ s.now → s.pins.railok = true → s.arbiter.list = [] →
    (∀ c : Chan, s.pins.sense[c] = false) →
    exec .settleExpiry s =
      .next (State.decideLines { s with control := { s.control with rail := .on } }))

/-- SET MODE (R128, R131, R134): its refusals, the present modes from which each port may enter a target, and an
accepted change: the mode is the target, the rail is OFF in IDLE and settles for 2000 ticks on leaving it, the
MODE_CHANGE edge of every port is set, and the reply carries the new mode. CLEAR ALARM (R140) and READ ALARM
(R141): the refusals, the change to IDLE that keeps the record, and the record, mode, rail state and RAILOK level
that are reported. -/
def Obligations.ModeAndAlarmCommands : Prop :=
  (∀ (s : State) (p : Port) (b : Byte), s.ready p →
    let refused := fun status => exec (.setMode p b) s = .next (s.answered p status [])
    ((modeOf b = none ∨ p = .p1 ∨ modeOf b = some .alarm ∨ (p = .p0 ∧ modeOf b = some .service)
        ∨ (p = .p2 ∧ (modeOf b = some .game ∨ modeOf b = some .tilt))) → refused .notPermitted)
    ∧ ∀ target, modeOf b = some target → target ≠ .alarm →
      (p = .p0 ∧ target ≠ .service ∨ p = .p2 ∧ target ≠ .game ∧ target ≠ .tilt) →
      let mode := s.control.mode
      let table :=
        p = .p0 ∧ (target = .idle ∧ (mode = .attract ∨ mode = .game ∨ mode = .tilt)
          ∨ target = .attract ∧ (mode = .idle ∨ mode = .game ∨ mode = .tilt)
          ∨ target = .game ∧ (mode = .idle ∨ mode = .attract ∨ mode = .tilt)
          ∨ target = .tilt ∧ mode = .game)
        ∨ p = .p2 ∧ ((target = .idle ∨ target = .attract) ∧ mode = .service
          ∨ target = .service ∧ (mode = .idle ∨ mode = .attract))
      (¬table ∨ s.pins.resetn = false → refused .wrongMode)
      ∧ (table → s.pins.resetn = true →
        ∃ t, exec (.setMode p b) s = .next t ∧ t.control.mode = target
          ∧ t.control.rail =
            (if target = .idle then .off
              else if s.control.mode = .idle then .settling (s.now + 2000) else s.control.rail)
          ∧ t.control.alarm = s.control.alarm
          ∧ (∀ q, (t.port q).attention.modeEdge = true)
          ∧ (t.link p).sending = some (replyFrame .ok (s.link p).lost target [b])))
  ∧ (∀ (s : State) (p : Port), s.ready p →
    let refused := fun status => exec (.clearAlarm p) s = .next (s.answered p status [])
    (p = .p1 → refused .notPermitted)
    ∧ (p ≠ .p1 → s.control.mode ≠ .alarm → refused .notInAlarm)
    ∧ (p ≠ .p1 → s.control.mode = .alarm → (∃ c : Chan, s.pins.sense[c] = true) →
      refused .shortPresent)
    ∧ (p ≠ .p1 → s.control.mode = .alarm → (∀ c : Chan, s.pins.sense[c] = false) →
      ∃ t, exec (.clearAlarm p) s = .next t ∧ t.control.mode = .idle ∧ t.control.rail = .off
        ∧ t.control.alarm = s.control.alarm ∧ (∀ q, (t.port q).attention.modeEdge = true)
        ∧ (t.link p).sending = some (replyFrame .ok (s.link p).lost .idle []))
    ∧ exec (.readAlarm p) s = .next (s.answered p .ok
      ([match s.control.alarm with
          | none => 0
          | some a => if a.later.isSome then 3 else 1,
          byte s.control.mode.code, s.control.rail.code, if s.pins.railok then 1 else 0]
        ++ match s.control.alarm with
          | none => List.replicate 9 0
          | some a =>
            [a.cause.code, a.cause.channelByte] ++ timeBytes a.time
              ++ (match a.later with
                | none => [0, 0]
                | some l => [l.code, l.channelByte])
              ++ [byte a.laterCount])))

/-- What a change of mode does to the orders of a port that the mode entered does not allow (R75, R129, R130, R96).
Every order of its ring is marked, a mark that stands is kept, and the orders that are taken in the change end with
their marks. Every live order ends with the status of the change, in the order of the takes; that the orders taken in
the change end after them is the model's reading (assumption 24, DEDUCED). A live pulse of such an order ends: its
channel recycles without an owner. An order that waited leaves its channel queue and the admission list. -/
def Obligations.ModeChangeEndsOrders : Prop :=
  ∀ (i : Instr) (s t : State) (target : Mode) (p : Port), s.enters i target → s.coherent →
    exec i s = .next t →
    ¬((target = .attract ∨ target = .game) ∧ p ≠ .p2 ∨ target = .tilt ∧ p = .p0
      ∨ target = .service ∧ p = .p2) →
    let status := if target = .alarm then EndStatus.alarmAbort else .modeAbort
    let mark := if target = .alarm then Mark.alarmAbort else .modeAbort
    let marked : List Slot := (s.port p).ring.slots.map fun slot =>
      { slot with mark := slot.mark.or (some mark) }
    let live := (s.entriesOf p).filter Entry.live
    (∀ e ∈ t.table, e.port = p → e.stage = .doneHeld)
    ∧ (∃ k, (t.port p).ring.slots = marked.drop k
      ∧ ((live.map fun e => e.order.tag).Nodup →
        (t.port p).completions ++ (t.port p).held =
          (s.port p).completions ++ (s.port p).held
            ++ (live.filter fun e => !e.order.quiet).map (fun e => e.record status s.time)
            ++ ((marked.take k).filter fun slot => !slot.order.quiet).map fun slot =>
              { tag := slot.order.tag
                channel := slot.order.channel
                kind := slot.order.kind
                status := (slot.mark.map Mark.status).getD status
                steps := 0
                firstKick := none
                endTime := s.time
                heatWaited := false
                railWaited := false
                folded := false }))
    ∧ ∀ e ∈ live, (live.map fun e => e.order.tag).Nodup →
      let c := e.order.channel
      let own : Owner := .order p e.order.tag
      (∀ pu : Pulse, (s.chan c).phase.isLive = true → (s.chan c).pulse = some pu → pu.owner = own →
        pu.owned = true → 0 < pu.recycleLength →
        (t.chan c).phase = .recycle ∧ gateSixteenths t c = 0
          ∧ (t.chan c).pulse = some
            { pu with
              owned := false
              openCheck := if pu.openCheck = OpenCheck.pending then OpenCheck.none else pu.openCheck
              foldAt := none
              recycleAt := some (s.now + pu.recycleLength) })
      ∧ ((s.chan c).runs own = false →
        (∀ m ∈ s.arbiter.list, m.channel = c → (s.chan c).isTestingFront m.owner = true) →
        (∀ q ∈ (t.chan c).queue, q.owner ≠ own)
          ∧ ∀ m ∈ t.arbiter.list, m.channel = c → m.owner ≠ own)

/-- What a change of mode does to a reflex entry (R119, R125, R131). With no work in hand it is ARMED or
DISARMED by the mode entered, and a SPENT entry that stays armed stays SPENT. A WAITING entry that stops being armed
is DISARMED and its request is withdrawn. A live pulse ends with cause ABORT on entry to ALARM, with cause RELEASE
on entry to TILT or IDLE and for a FLIP entry that stops being armed; the entry stays ACTIVE and reports it. Any
other live pulse, and a recycle, runs on. -/
def Obligations.ModeChangeAndReflexes : Prop :=
  ∀ (i : Instr) (s t : State) (target : Mode) (x : ReflexNo), s.enters i target → s.coherent →
    exec i s = .next t →
    let r := s.reflexAt x
    let armed := r.enabled = true
      ∧ (target = .attract ∧ r.inAttract = true ∨ target = .game ∧ r.inGame = true)
    let idle := (∀ c, ∀ q ∈ (s.chan c).queue, q.owner ≠ .reflex x)
      ∧ ∀ m ∈ s.arbiter.list, m.owner ≠ .reflex x
    (r.state = .disarmed ∨ r.state = .armed → idle →
      t.reflexAt x = { r with state := if armed then .armed else .disarmed })
    ∧ (r.state = .spent → idle →
      t.reflexAt x = { r with state := if armed then .spent else .disarmed })
    ∧ ∀ c, channelOf r.channel = some c →
      (r.state = .waiting → ¬armed →
        (∀ d, ∀ q ∈ (s.chan d).queue, q.owner = .reflex x → d = c) →
        (∀ m ∈ s.arbiter.list, m.owner = .reflex x →
          m.channel = c ∧ (s.chan c).isTestingFront (.reflex x) = true) →
        (∀ p, ∀ slot ∈ (s.port p).ring.slots, ∀ d, ∀ q ∈ (s.chan d).queue,
          q.owner ≠ .order p slot.order.tag) →
        t.reflexAt x = { r with state := .disarmed }
          ∧ (∀ q ∈ (t.chan c).queue, q.owner ≠ .reflex x)
          ∧ ∀ m ∈ t.arbiter.list, m.owner ≠ .reflex x)
      ∧ ∀ pu : Pulse, r.state = .active → (s.chan c).pulse = some pu → pu.owner = .reflex x →
        pu.owned = true → idle →
        let cause :=
          if target = .alarm then some Cause.abort
          else if target = .tilt ∨ target = .idle ∨ r.action = .flip ∧ ¬armed then some .release
          else none
        (∀ k, (s.chan c).phase.isLive = true → 0 < pu.recycleLength → cause = some k →
          t.reflexAt x = { r with report := { r.report with lastEnd := some k } }
            ∧ (t.chan c).phase = .recycle ∧ gateSixteenths t c = 0
            ∧ (t.chan c).pulse = some
              { pu with
                openCheck := if pu.openCheck = OpenCheck.pending then OpenCheck.none else pu.openCheck
                foldAt := none
                recycleAt := some (s.now + pu.recycleLength) })
        ∧ ((s.chan c).phase.isLive = true → cause = none → s.control.rail = .on →
          t.reflexAt x = r ∧ (t.chan c).phase = (s.chan c).phase ∧ (t.chan c).pulse = some pu)
        ∧ ((s.chan c).phase = .recycle →
          t.reflexAt x = r ∧ (t.chan c).phase = .recycle ∧ (t.chan c).pulse = some pu)

/-! ## Channel commands -/

/-- WRITE PROFILE (R17 to R20): the tests in their order, and a record that passes them: heat is brought up to
date, and the clamped record and its effective fold duty are kept. An OFFLINE channel becomes IDLE if the record
enables it; a FAULTED one stays FAULTED. On an IDLE channel an enabling record offers the front again, which loses
its cooling wait or its place in the list and is tested under the new record; a disabling one makes the channel
OFFLINE, drops the requests in its queue and ends the orders in it, with records of CHANNEL_OFFLINE (R96). The clamps bring every field
into its range and leave a field in its range as carried (section 2.2). -/
def Obligations.WriteProfileTests : Prop :=
  (∀ (s : State) (p : Port) (b : Byte) (r : ProfileRecord), s.ready p →
    let refused := fun status => exec (.writeProfile p b r) s = .next (s.answered p status [])
    let mode := s.control.mode
    (p = .p1 → refused .notPermitted)
    ∧ (p ≠ .p1 → 24 ≤ b.toNat → refused .notFound)
    ∧ ∀ c : Chan, p ≠ .p1 → b = byte c.val →
      if ¬(p = .p0 ∧ (mode = .idle ∨ mode = .attract) ∨ p = .p2 ∧ (mode = .idle ∨ mode = .service)) then
        refused .wrongMode
      else if (s.chan c).phase.hasPulse then refused .channelBusy
      else if (clampProfile r).ceiling < (s.chan c).heatNow s.now then refused .channelWarm
      else if (clampProfile r).canFire = false then refused .profileCannotFire
      else
        let pr := clampProfile r
        let heat := (s.chan c).heatNow s.now
        let written := fun (phase : Phase) (front : Front) => s.modChan c fun ch =>
          { ch with
            heat := heat
            heatAt := s.now
            profile := pr
            effectiveFold := pr.foldDutyInForce
            phase := phase
            front := front }
        let others := s.arbiter.list.filter fun m => m.channel ≠ c
        let answered := fun (t : State) => exec (.writeProfile p b r) s = .next (t.answered p .ok [])
        ((s.chan c).phase = .offline →
          answered (written (if r.enabled then .idle else .offline) (s.chan c).front))
        ∧ ((s.chan c).phase = .faulted → answered (written .faulted (s.chan c).front))
        ∧ ((s.chan c).phase = .idle → (s.chan c).queue = [] → s.arbiter.list = others →
          answered (written (if r.enabled then .idle else .offline) .channelWait))
        ∧ (∀ q behind, (s.chan c).phase = .idle → (s.chan c).queue = q :: behind → r.enabled = true →
          let length := pr.kickLength (s.kickShape q.owner).fraction
          let small := pr.kickDraw ≤ s.arbiter.limit q.owner
          (small → s.control.rail ≠ .on ∨ others = [] → pr.kickFits heat length = false →
            ∃ t, exec (.writeProfile p b r) s = .next t ∧ (t.chan c).queue = q :: behind
              ∧ (t.chan c).profile = pr ∧ (t.chan c).heat = heat
              ∧ (t.chan c).front = .heatWait (s.now + pr.coolingWait heat length)
              ∧ t.arbiter.list = others)
          ∧ (small → s.control.rail ≠ .on → pr.kickFits heat length = true →
            ∃ t, exec (.writeProfile p b r) s = .next t ∧ (t.chan c).queue = q :: behind
              ∧ (t.chan c).profile = pr ∧ (t.chan c).heat = heat ∧ (t.chan c).front = .admission
              ∧ t.arbiter.list =
                insertMember ⟨c, q.owner, q.priority, pr.kickDraw, s.arbiter.joins⟩ others)
          ∧ (s.arbiter.units + pr.kickDraw ≤ s.arbiter.limit q.owner → s.control.rail = .on →
            others = [] → pr.kickFits heat length = true →
            ∃ t, exec (.writeProfile p b r) s = .next t ∧ (t.chan c).phase = .kick
              ∧ (t.chan c).profile = pr
              ∧ (t.chan c).pulse.map (fun pu => (pu.owner, pu.start, pu.kickLength)) =
                some (q.owner, s.now, length)
              ∧ t.arbiter.units = s.arbiter.units + pr.kickDraw))
        ∧ ((s.chan c).phase = .idle → r.enabled = false → (∀ p, (s.port p).ring.slots = []) →
          (∀ q ∈ (s.chan c).queue, ∀ p tag, q.owner = .order p tag →
            ∃ e, s.liveEntry p tag = some e ∧ e.order.channel = c) →
          ∃ t, exec (.writeProfile p b r) s = .next t ∧ (t.chan c).phase = .offline
            ∧ (t.chan c).queue = [] ∧ (t.chan c).profile = pr ∧ (∀ m ∈ t.arbiter.list, m.channel ≠ c)
            ∧ ((∀ e ∈ s.table, ∀ n, e.stage ≠ .following n) →
              ∀ q ∈ (s.chan c).queue, ∀ x, q.owner = .reflex x →
                (t.reflexAt x).report.drop = some .channelOffline ∧ (t.reflexAt x).state ≠ .waiting)
            ∧ (∀ q ∈ (s.chan c).queue, ∀ p tag, q.owner = .order p tag → t.liveEntry p tag = none)
            ∧ (s.control.rail ≠ .on ∨ others = [] → (∀ e ∈ s.table, ∀ n, e.stage ≠ .following n) →
              (s.table.map fun e => (e.port, e.order.tag)).Nodup →
              ∀ p, (t.port p).completions ++ (t.port p).held =
                (s.port p).completions ++ (s.port p).held ++
                  (s.table.filter fun e => e.port == p && e.live && !e.order.quiet &&
                    (s.chan c).queue.any fun q => q.owner == .order e.port e.order.tag).map fun e =>
                      e.record .channelOffline s.time)))
  ∧ (∀ r : ProfileRecord, (clampProfile r).inRange
    ∧ (1 ≤ r.kickTime.toNat → r.kickTime.toNat ≤ 1000 → (clampProfile r).kickTime = r.kickTime.toNat)
    ∧ (1 ≤ r.kickDraw.toNat → r.kickDraw.toNat ≤ 64 → (clampProfile r).kickDraw = r.kickDraw.toNat)
    ∧ (r.holdDuty.toNat ≤ 16 → (clampProfile r).holdDuty = r.holdDuty.toNat)
    ∧ (r.foldDuty.toNat ≤ 16 → (clampProfile r).foldDuty = r.foldDuty.toNat)
    ∧ (1 ≤ r.heatFactor.toNat → r.heatFactor.toNat ≤ 16 →
      (clampProfile r).heatFactor = r.heatFactor.toNat)
    ∧ (1 ≤ r.cooling.toNat → (clampProfile r).cooling = r.cooling.toNat)
    ∧ (1 ≤ r.ceiling.toNat → (clampProfile r).ceiling = r.ceiling.toNat)
    ∧ (r.recycle.toNat ≤ 10000 → (clampProfile r).recycle = r.recycle.toNat)
    ∧ (1 ≤ r.maxOn.toNat → r.maxOn.toNat ≤ 6000000 → (clampProfile r).maxOn = r.maxOn.toNat)
    ∧ (clampProfile r).senseDelay = r.senseDelay.toNat)

/-- READ CHANNEL (R37) brings the heat up to date and reports the channel; CLEAR FAULT (R30) removes the
record of a FAULTED channel and returns it to service, and finds no fault in any other state. -/
def Obligations.ChannelReadAndClear : Prop :=
  ∀ (s : State) (p : Port) (b : Byte), s.ready p →
    (24 ≤ b.toNat → exec (.readChannel p b) s = .next (s.answered p .notFound [])
      ∧ exec (.readProfile p b) s = .next (s.answered p .notFound []))
    ∧ (p = .p1 → exec (.clearFault p b) s = .next (s.answered p .notPermitted []))
    ∧ (p ≠ .p1 → 24 ≤ b.toNat → exec (.clearFault p b) s = .next (s.answered p .notFound []))
    ∧ ∀ c : Chan, b = byte c.val →
      let heated := s.modChan c fun ch => { ch with heat := ch.heatNow s.now, heatAt := s.now }
      exec (.readChannel p b) s =
        .next (heated.answered p .ok (heated.channelBytes (heated.chan c)))
      ∧ (p ≠ .p1 → (s.chan c).phase ≠ .faulted →
        exec (.clearFault p b) s = .next (s.answered p .notFound []))
      ∧ (p ≠ .p1 → (s.chan c).phase = .faulted →
        exec (.clearFault p b) s = .next ((s.modChan c fun ch =>
          { ch with
            heat := ch.heatNow s.now
            heatAt := s.now
            fault := none
            phase := if ch.profile.enabled then .idle else .offline }).answered p .ok []))

/-! ## Switch and reflex commands -/

/-- WRITE SWITCH CONFIG (R112), READ SWITCHES (R113), SUBSCRIBE (R114) and READ SWITCH EVENTS (R116). -/
def Obligations.SwitchCommands : Prop :=
  ∀ (s : State) (p : Port), s.ready p →
    let mode := s.control.mode
    let allowed :=
      p = .p0 ∧ (mode = .idle ∨ mode = .attract) ∨ p = .p2 ∧ (mode = .idle ∨ mode = .service)
    (∀ (b : Byte) (high : Bool) (closeTime openTime : Byte),
      let refused := fun status =>
        exec (.writeSwitchConfig p b high closeTime openTime) s = .next (s.answered p status [])
      (p = .p1 → refused .notPermitted)
      ∧ (p ≠ .p1 → 32 ≤ b.toNat → refused .notFound)
      ∧ ∀ n : SwitchNo, p ≠ .p1 → b = byte n.val →
        (¬allowed → refused .wrongMode)
        ∧ (allowed → (s.switchAt n).closedHigh ≠ high →
          (∃ x, (s.reflexAt x).switch = n ∧ ((s.reflexAt x).state = .waiting
            ∨ (s.reflexAt x).state = .active ∨ (s.reflexAt x).state = .spent)) → refused .entryBusy)
        ∧ (allowed → (s.switchAt n).closedHigh = high →
          exec (.writeSwitchConfig p b high closeTime openTime) s = .next ((s.modSwitch n fun sw =>
            { sw with closeTime := closeTime.toNat, openTime := openTime.toNat }).answered p .ok []))
        ∧ (allowed → (s.switchAt n).closedHigh ≠ high →
          (∀ x, (s.reflexAt x).switch = n →
            (s.reflexAt x).state = .disarmed ∨ (s.reflexAt x).state = .armed) →
          exec (.writeSwitchConfig p b high closeTime openTime) s = .next ((s.modSwitch n fun _ =>
            { closedHigh := high
              closeTime := closeTime.toNat
              openTime := openTime.toNat
              closed := high == s.pins.switch[n]
              debounceAt := none }).answered p .ok [])))
    ∧ exec (.readSwitches p) s = .next (s.answered p .ok
      (setBytes4 (bitSet (s.switches.toList.map (·.closed))) ++ timeBytes s.time))
    ∧ (∀ set, exec (.subscribe p set) s = .next ((s.modPort p fun ps =>
        { ps with switches := { ps.switches with set := set } }).answered p .ok []))
    ∧ let sub := (s.port p).switches
      exec (.readSwitchEvents p) s = .next ((s.modPort p fun ps =>
        { ps with switches := { ps.switches with events := ps.switches.events.drop 6 } }).answered p .ok
          ([byte (min 6 sub.events.length), byte (sub.events.length - 6), byte sub.lost]
            ++ (sub.events.take 6).flatMap SwitchEvent.bytes))

/-- WRITE REFLEX (R118, R119): its tests, and a write that replaces the fields, clears the report and leaves
the entry ARMED or DISARMED; the trigger edge of a FLIP is CLOSE. READ REFLEX (R126) reports the entry. -/
def Obligations.ReflexCommands : Prop :=
  ∀ (s : State) (p : Port) (b : Byte) (r : ReflexRecord), s.ready p →
    let mode := s.control.mode
    let refused := fun status => exec (.writeReflex p b r) s = .next (s.answered p status [])
    (p = .p1 → refused .notPermitted)
    ∧ (p ≠ .p1 → 16 ≤ b.toNat → refused .notFound)
    ∧ (16 ≤ b.toNat → exec (.readReflex p b) s = .next (s.answered p .notFound []))
    ∧ (∀ x : ReflexNo, b = byte x.val →
      exec (.readReflex p b) s = .next (s.answered p .ok (s.reflexBytes x)))
    ∧ ∀ x : ReflexNo, p ≠ .p1 → b = byte x.val →
      if 32 ≤ r.switch.toNat ∨ actionOf r.action = none
          ∨ (actionOf r.action ≠ some .tilt ∧ 24 ≤ r.channel.toNat) then refused .badOrder
      else if ¬(p = .p0 ∧ (mode = .idle ∨ mode = .attract) ∨ p = .p2 ∧ (mode = .idle ∨ mode = .service))
      then refused .wrongMode
      else if (s.reflexAt x).state = .waiting ∨ (s.reflexAt x).state = .active
          ∨ (s.reflexAt x).state = .spent then refused .entryBusy
      else ∀ n action, switchOf r.switch = some n → actionOf r.action = some action →
        exec (.writeReflex p b r) s = .next ((s.modReflex x fun _ =>
          { switch := n
            openEdge := r.openEdge && action != .flip
            action := action
            channel := r.channel
            inAttract := r.inAttract
            inGame := r.inGame
            enabled := r.enabled
            state :=
              if r.enabled ∧ (mode = .attract ∧ r.inAttract ∨ mode = .game ∧ r.inGame) then .armed
              else .disarmed
            report := ⟨false, false, false, none, none⟩ }).answered p .ok [])

/-- A CLOSE edge on an ARMED FIRE or FLIP entry (R111, R120, R121, R22): with its channel IDLE, its queue and the
admission list empty, the rail ON, and room on the rail and for the heat, the coil kicks in the event of the
edge, with the entry as owner and a hold pulse for FLIP. Each subscribed port gets the record with the entry and
TRIGGER (R114, R115). -/
def Obligations.ReflexKicksAtTheEdge : Prop :=
  ∀ (s : State) (n : SwitchNo) (x : ReflexNo) (c : Chan) (expiry : Nat), s.powered = true →
    (s.switchAt n).closed = false → (s.switchAt n).debounceAt = some expiry → expiry ≤ s.now →
    (s.reflexAt x).state = .armed → (s.reflexAt x).action ≠ .tilt → (s.reflexAt x).switch = n →
    (s.reflexAt x).openEdge = false → channelOf (s.reflexAt x).channel = some c →
    (∀ y, y ≠ x → (s.reflexAt y).concerned n true = false) →
    (s.chan c).phase = .idle → (s.chan c).queue = [] → s.arbiter.list = [] → s.control.rail = .on →
    s.arbiter.units + (s.chan c).profile.kickDraw ≤ s.arbiter.budget →
    (s.chan c).profile.kickFits ((s.chan c).heatNow s.now) ((s.chan c).profile.kickLength 16) = true →
    ∃ t, exec (.debounceExpiry n) s = .next t ∧ (t.switchAt n).closed = true
      ∧ (t.chan c).phase = .kick ∧ gateSixteenths t c = 16
      ∧ (t.chan c).pulse.map (fun pu => (pu.owner, pu.kind, pu.start, pu.kickLength)) =
        some (.reflex x, if (s.reflexAt x).action = .flip then .hold else .plain, s.now,
          (s.chan c).profile.kickLength 16)
      ∧ (t.reflexAt x).state = .active ∧ (t.reflexAt x).report = Report.clear
      ∧ t.arbiter.units = s.arbiter.units + (s.chan c).profile.kickDraw
      ∧ (∀ d, d ≠ c → t.chan d = s.chan d) ∧ t.table = s.table
      ∧ ∀ p, (t.port p).switches =
        (if (s.port p).switches.set.getLsbD n.val then
          (s.port p).switches.offerEvent ⟨n, true, s.time, none, some ⟨x, .trigger, false, false, false⟩⟩
        else (s.port p).switches)

/-- An edge that concerns one reflex entry that is not to kick (R120, R122, R123, R133). A FLIP entry's OPEN edge
withdraws its waiting request, releases its live pulse, is IGNORED during its recycle, and rearms a SPENT entry. A
trigger edge on an entry in WAITING, ACTIVE or SPENT is IGNORED. A TILT entry's trigger edge changes GAME to
TILT, with no entry left armed and the rail as it was, and is IGNORED in another mode. Each subscribed port gets
the record with the entry and what it did (R114, R115). -/
def Obligations.FlipAndTiltEdges : Prop :=
  ∀ (s : State) (n : SwitchNo) (x : ReflexNo) (expiry : Nat), s.powered = true →
    (s.switchAt n).debounceAt = some expiry → expiry ≤ s.now → (s.reflexAt x).switch = n →
    (∀ y, y ≠ x → (s.reflexAt y).switch ≠ n) →
    let r := s.reflexAt x
    let close := !(s.switchAt n).closed
    let s1 := s.modSwitch n fun sw => { sw with closed := close, debounceAt := none }
    let record := fun (act : ReflexAct) =>
      (⟨n, close, s.time, none,
        some ⟨x, act, r.report.heatWaited, r.report.railWaited, r.report.drop.isSome⟩⟩ : SwitchEvent)
    let becomes := fun (u : State) (act : ReflexAct) =>
      ∃ t, exec (.debounceExpiry n) s = .next t ∧ t = State.decideLines { u with ports := t.ports }
        ∧ ∀ p, t.port p = PortState.decideLine u.control.mode
          { u.port p with
            switches :=
              if (u.port p).switches.set.getLsbD n.val then (u.port p).switches.offerEvent (record act)
              else (u.port p).switches }
    (close = false → r.action = .flip →
      (r.state = .spent → becomes (s1.modReflex x fun r => { r with state := .armed }) .rearm)
      ∧ ∀ c, channelOf r.channel = some c →
        (r.state = .active → (s.chan c).phase = .recycle → becomes s1 .ignored)
        ∧ (∀ pu : Pulse, r.state = .active → (s.chan c).phase.isLive = true → (s.chan c).pulse = some pu →
          pu.owner = .reflex x → pu.owned = true → 0 < pu.recycleLength → s.arbiter.list = [] →
          becomes (({ s1 with
              arbiter := { s.arbiter with units := s.arbiter.units - (s.chan c).draw } }.modChan c fun ch =>
            { ch with
              phase := .recycle
              heat := ch.heatNow s.now
              heatAt := s.now
              pulse := some
                { pu with
                  openCheck := if pu.openCheck = OpenCheck.pending then OpenCheck.none else pu.openCheck
                  foldAt := none
                  recycleAt := some (s.now + pu.recycleLength) } }).modReflex x fun r =>
            { r with report := { r.report with lastEnd := some .release } }) .release)
        ∧ (r.state = .waiting → (s.chan c).phase.busy = true →
          becomes ((s1.modChan c fun ch =>
            { ch with queue := ch.queue.filter fun q => q.owner ≠ .reflex x }).modReflex x fun r =>
              { r with state := .armed }) .withdraw)
        ∧ ∀ q : QueueMember, r.state = .waiting → (s.chan c).phase = .idle → (s.chan c).queue = [q] →
          q.owner = .reflex x →
          let others := s.arbiter.list.filter fun m => m.channel ≠ c
          s.control.rail ≠ .on ∨ others = [] →
          becomes (({ s1 with arbiter := { s.arbiter with list := others } }.modChan c fun ch =>
            { ch with queue := [], front := .channelWait }).modReflex x fun r =>
              { r with state := .armed }) .withdraw)
    ∧ (r.openEdge = !close → r.action ≠ .flip ∨ close = true →
      r.state = .waiting ∨ r.state = .active ∨ r.state = .spent → becomes s1 .ignored)
    ∧ (r.openEdge = !close → r.action = .tilt → r.state = .armed →
      (s.control.mode ≠ .game → becomes s1 .ignored)
      ∧ (s.control.mode = .game →
        ∃ t, exec (.debounceExpiry n) s = .next t ∧ t.control.mode = .tilt
          ∧ t.control.rail = s.control.rail ∧ (∀ p, (t.port p).attention.modeEdge = true)
          ∧ (∀ y, (t.reflexAt y).state = .disarmed ∨ (t.reflexAt y).state = .active)
          ∧ ((∀ c, ∀ q ∈ (s.chan c).queue, q.owner ≠ .reflex x) →
            (∀ m ∈ s.arbiter.list, m.owner ≠ .reflex x) →
            ∀ p, (t.port p).switches =
              if (s.port p).switches.set.getLsbD n.val then
                (s.port p).switches.offerEvent (record .trigger)
              else (s.port p).switches)))

/-! ## Lamp commands -/

/-- WRITE LAMPS (R144, R146): its refusals, and an accepted write: each lamp named takes the last content
carried for it in the layer of the port, and the drive level its cells then give; no other lamp changes. -/
def Obligations.WriteLampsWritesTheLayer : Prop :=
  ∀ (s : State) (p : Port) (writes : List CellWrite), s.ready p → cellWritesOk writes = true →
    ((∃ w ∈ writes, 40 ≤ w.lamp.toNat) →
      exec (.writeLamps p writes) s = .next (s.answered p .notFound []))
    ∧ ((∀ w ∈ writes, w.lamp.toNat < 40) → (∃ w ∈ writes, cellOf w = none) →
      exec (.writeLamps p writes) s = .next (s.answered p .badOrder []))
    ∧ ∀ cells, cellsOf writes = some cells →
      ∃ t : State, exec (.writeLamps p writes) s = .next (t.answered p .ok [])
        ∧ t = { s with lampUnit := t.lampUnit }
        ∧ ∀ l, match (cells.filter fun w => w.1 == l).getLast? with
          | none => t.lamp l = s.lamp l
          | some (_, cell) =>
            (t.lamp l).showCell = (if p = .p1 then cell else (s.lamp l).showCell)
              ∧ (t.lamp l).rulesCell = (if p = .p0 then cell else (s.lamp l).rulesCell)
              ∧ (t.lamp l).testCell = (if p = .p2 then cell else (s.lamp l).testCell)
              ∧ (t.lamp l).drive = (t.lamp l).driveLevel s.control.mode s.time

/-- The decisions of drive levels (R148, R149, R150, R152), made for the lamps of an accepted WRITE LAMPS and for the
lamps that blink at the rate of a phase event, lowest number first; that the row makes them also when the phase
index has not changed is the model's (assumption 14, DEDUCED). A rise from 0 starts the lamp: at once and
WARM with its inrush flag clear, at once if it is WARM already, by a slot if one is free, and otherwise staged at
the tail of the list. A fall to 0 takes it from the list. A WARM lamp that is unlit cools down for 5000 ticks. A
staged lamp's output is 0, and any other lamp's is its drive level. -/
def Obligations.LampsStartAndStage : Prop :=
  let driven := fun (u : State) (l : LampNo) =>
    let lamp := u.lamp l
    let level := lamp.driveLevel u.control.mode u.time
    let starts := lamp.drive = 0 ∧ 0 < level
    let free := u.lampUnit.slotsInUse < u.lampUnit.slotLimit
    let cold := lamp.inrush = true ∧ lamp.warm = false
    let warm : Bool := lamp.warm || decide (starts ∧ (lamp.inrush = false ∨ cold ∧ free))
    { u with
      lampUnit :=
        { u.lampUnit with
          staging :=
            if starts ∧ cold ∧ ¬free then u.lampUnit.staging ++ [l]
            else if lamp.drive ≠ 0 ∧ level = 0 then u.lampUnit.staging.filter fun m => m ≠ l
            else u.lampUnit.staging } }.modLamp l fun lamp =>
      { lamp with
        drive := level
        warm := warm
        slotAt :=
          if starts ∧ cold ∧ free then some (u.now + u.lampUnit.inrushTime) else lamp.slotAt
        coolAt :=
          if warm = true ∧ lamp.unlit u.control.mode = true then lamp.coolAt.or (some (u.now + 5000))
          else none }
  let lamps := fun (which : LampNo → Bool) => (List.ofFn (n := 40) id).filter which
  (∀ (s : State) (p : Port) (writes : List CellWrite) (cells : List (LampNo × Option Light)), s.ready p →
    cellWritesOk writes = true → cellsOf writes = some cells →
    let written := cells.foldl (fun u w => u.modLamp w.1 fun lamp =>
      match p with
      | .p0 => { lamp with rulesCell := w.2 }
      | .p1 => { lamp with showCell := w.2 }
      | .p2 => { lamp with testCell := w.2 }) s
    exec (.writeLamps p writes) s =
      .next (((lamps fun l => cells.any fun w => w.1 == l).foldl driven written).answered p .ok []))
  ∧ (∀ (s : State) (r : Rate), s.powered = true →
    exec (.lampPhaseEvent r) s =
      .next ((lamps fun l => (s.lamp l).blinksAt s.control.mode r).foldl driven s).decideLines)
  ∧ ∀ (s : State) (l : LampNo),
    lampOutput s l = if l ∈ s.lampUnit.staging then 0 else (s.lamp l).drive

/-- WRITE LAMP CONFIG (R153) is refused on P1; with no slot to grant, none staged or none free under the new limit,
it writes the flags, the clamped inrush time and slot limit, and answers the values written; a staged lamp whose
flag is cleared leaves the list and is WARM. READ LAMPS (R154) reports up to 10 lamps. -/
def Obligations.LampConfigAndRead : Prop :=
  ∀ (s : State) (p : Port) (flags : BitVec 40) (time : BitVec 16) (limit first : Byte), s.ready p →
    (p = .p1 → exec (.writeLampConfig p flags time limit) s = .next (s.answered p .notPermitted []))
    ∧ (p ≠ .p1 → s.lampUnit.staging = [] ∨ min 16 (max 1 limit.toNat) ≤ s.lampUnit.slotsInUse →
      let time' := min 2000 (max 100 time.toNat)
      let limit' := min 16 (max 1 limit.toNat)
      ∃ t : State, exec (.writeLampConfig p flags time limit) s =
          .next (t.answered p .ok (bytes2 time' ++ [byte limit']))
        ∧ t = { s with lampUnit := t.lampUnit } ∧ t.lampUnit.inrushTime = time'
        ∧ t.lampUnit.slotLimit = limit'
        ∧ t.lampUnit.staging = s.lampUnit.staging.filter (fun l => flags.getLsbD l.val)
        ∧ ∀ l, t.lamp l =
          { s.lamp l with
            inrush := flags.getLsbD l.val
            warm := (s.lamp l).warm || (!flags.getLsbD l.val && s.lampUnit.staging.contains l) })
    ∧ (40 ≤ first.toNat → exec (.readLamps p first) s = .next (s.answered p .notFound []))
    ∧ ∀ l : LampNo, first = byte l.val →
      let listed := (List.ofFn (n := 40) id).filter fun m => decide (l.val ≤ m.val ∧ m.val < l.val + 10)
      exec (.readLamps p first) s = .next (s.answered p .ok
        ([first, byte (min 10 (40 - l.val))] ++ listed.flatMap s.lampBytes
          ++ [byte s.lampUnit.slotLimit, byte s.lampUnit.slotsInUse] ++ bytes2 s.lampUnit.inrushTime
          ++ [byte s.lampUnit.staging.length, byte (min 8 s.lampUnit.staging.length)]
          ++ (s.lampUnit.staging.take 8).map fun m => byte m.val))

/-! ## Attention -/

/-- WRITE ATTENTION writes the sending port's settings, each clamped to its range, and answers the values
written (R161). That the n-th priority byte is source n's is the model's reading: R161 and section 11.4 give no
order of the seven (assumption 34, DEDUCED). TAKE EVENT chooses the pending source of the highest priority above
0, at a tie the lowest number, clears its edge flag if it has one, and changes nothing else (R157, R159). The line
is decided anew in both (R158). -/
def Obligations.AttentionCommands : Prop :=
  (∀ (s : State) (p : Port) (v : Vector Byte 7) (threshold mark : Byte), s.ready p →
    ∃ w : Vector Nat 7, w.toList = v.toList.map (fun b => min 7 b.toNat)
      ∧ exec (.writeAttention p v threshold mark) s = .next ((s.modPort p fun ps =>
          { ps with
            attention :=
              { ps.attention with
                priorities := w
                threshold := min 7 threshold.toNat
                lowMark := min 31 mark.toNat } }).answered p .ok
            (w.toList.map byte ++ [byte (min 7 threshold.toNat), byte (min 31 mark.toNat)])))
  ∧ (∀ (s : State) (p : Port), s.ready p →
    let ps := s.port p
    let mode := s.control.mode
    let open_ := fun n => sourcePending mode ps n = true ∧ 0 < ps.priority n
    (∀ n, chosenSource mode ps = some n →
      n ∈ allSources ∧ open_ n ∧ ∀ m ∈ allSources, open_ m →
        ps.priority m < ps.priority n ∨ (ps.priority m = ps.priority n ∧ n ≤ m))
    ∧ (chosenSource mode ps = none → ∀ n ∈ allSources, ¬open_ n)
    ∧ let after : PortState :=
        { ps with
          attention :=
            { ps.attention with
              faultEdge := ps.attention.faultEdge && chosenSource mode ps != some 2
              modeEdge := ps.attention.modeEdge && chosenSource mode ps != some 3 } }
      ∃ bits, exec (.takeEvent p) s = .next ((s.modPort p fun _ => after).answered p .ok
          [byte ((chosenSource mode ps).getD 0), bits, if lineAsserted mode after then 1 else 0])
        ∧ ∀ n ∈ allSources, bits.getLsbD n = sourcePending mode after n)

/-! ## What every command keeps -/

/-- The units in use equal the sum of the draws of all channels, and every command keeps this (R57). -/
def Obligations.UnitsAreTheSumOfTheDraws : Prop :=
  ∀ (i : Instr) (s t : State), s.unitsRight → exec i s = .next t → t.unitsRight

/-- Every command keeps what `State.inRange` bounds: profiles, effective fold duties and heats, the rings and
their heads, the completion queues and the switch event queues with their lost counts, 16 pending entries of a
port, the attention settings, the budget and the reserve, the alarm record's later count, the inrush time and the
slot limit (R17, R38, R40, R54, R77, R79, R95, R115, R139, R153, R161). The units in use, the held lists, the
channel queues, the admission list, the staging list and the slots in use are not among them. -/
def Obligations.RangesAreKept : Prop :=
  ∀ (i : Instr) (s t : State), s.inRange → exec i s = .next t → t.inRange

/-- Every command keeps a pulse record exactly in the channels in KICK, HOLD, FOLD and RECYCLE, a fault
record exactly in those in FAULTED, and no fault latched in a live pulse (R14, R22, R25, R27, R28, R29, R30). -/
def Obligations.RecordsStandWithTheirStates : Prop :=
  ∀ (i : Instr) (s t : State), s.coherent → exec i s = .next t → t.coherent

/-- No pulse is live unless the rail is ON and the table mode is ATTRACT, GAME, TILT or SERVICE, and the rail is OFF
in IDLE and ALARM: every command keeps this (R132, R134). -/
def Obligations.NoLivePulseWithoutTheRail : Prop :=
  (∀ (i : Instr) (s t : State), s.railRight → exec i s = .next t → t.railRight)
  ∧ ∀ (s : State) (c : Chan), s.railRight →
    (s.chan c).phase = .kick ∨ (s.chan c).phase = .hold ∨ (s.chan c).phase = .fold →
    s.control.rail = .on ∧ (s.control.mode = .attract ∨ s.control.mode = .game ∨ s.control.mode = .tilt
      ∨ s.control.mode = .service)

/-- The ATTN line of every port (R158): asserted exactly when a pending source has a priority greater than the
threshold, after every command; a threshold of 7 keeps it released; TAKE EVENT does not read it. -/
def Obligations.AttentionLinesAreRight : Prop :=
  (∀ (i : Instr) (s t : State), s.linesRight → exec i s = .next t → t.linesRight)
  ∧ (∀ (mode : Mode) (ps : PortState), lineAsserted mode ps = true ↔
    ∃ n ∈ allSources, sourcePending mode ps n = true ∧ ps.attention.threshold < ps.priority n)
  ∧ (∀ (mode : Mode) (ps : PortState), ps.inRange → ps.attention.threshold = 7 →
    lineAsserted mode ps = false)
  ∧ ∀ (mode : Mode) (ps : PortState) (threshold : Nat),
    chosenSource mode { ps with attention := { ps.attention with threshold := threshold } } =
      chosenSource mode ps

/-- No command of the show port changes a profile, the budget, the reserve, a switch or the mode controller
(R18, R55, R112, R128, R140, R172). -/
def Obligations.ShowPortKeepsProfilesRailSwitchesAndMode : Prop :=
  ∀ (c : Command) (s t : State), (s.link .p1).awaiting ≠ some .table →
    exec (c.row .p1) s = .next t →
    (∀ c, (t.chan c).profile = (s.chan c).profile) ∧ t.arbiter.budget = s.arbiter.budget
      ∧ t.arbiter.reserve = s.arbiter.reserve ∧ t.switches = s.switches ∧ t.control = s.control
end

