-- ==== Sys2Proof/Laws/State.lean ====
section
/-!
SUPPORT. What each named update of the state leaves as it was, field by field, and what a read gives
after a write of the same table.
-/

namespace Sys2Proof.Machine

/-! ## `modPort` -/

@[simp] theorem State.modPort_powered (s : State) (p : Port) (f : PortState → PortState) :
    (s.modPort p f).powered = s.powered := rfl
@[simp] theorem State.modPort_pins (s : State) (p : Port) (f : PortState → PortState) :
    (s.modPort p f).pins = s.pins := rfl
@[simp] theorem State.modPort_now (s : State) (p : Port) (f : PortState → PortState) :
    (s.modPort p f).now = s.now := rfl
@[simp] theorem State.modPort_table (s : State) (p : Port) (f : PortState → PortState) :
    (s.modPort p f).table = s.table := rfl
@[simp] theorem State.modPort_channels (s : State) (p : Port) (f : PortState → PortState) :
    (s.modPort p f).channels = s.channels := rfl
@[simp] theorem State.modPort_arbiter (s : State) (p : Port) (f : PortState → PortState) :
    (s.modPort p f).arbiter = s.arbiter := rfl
@[simp] theorem State.modPort_switches (s : State) (p : Port) (f : PortState → PortState) :
    (s.modPort p f).switches = s.switches := rfl
@[simp] theorem State.modPort_reflexes (s : State) (p : Port) (f : PortState → PortState) :
    (s.modPort p f).reflexes = s.reflexes := rfl
@[simp] theorem State.modPort_control (s : State) (p : Port) (f : PortState → PortState) :
    (s.modPort p f).control = s.control := rfl
@[simp] theorem State.modPort_lampUnit (s : State) (p : Port) (f : PortState → PortState) :
    (s.modPort p f).lampUnit = s.lampUnit := rfl
@[simp] theorem State.modPort_free (s : State) (p : Port) (f : PortState → PortState) :
    (s.modPort p f).free = s.free := rfl
@[simp] theorem State.modPort_pending (s : State) (p : Port) (f : PortState → PortState) :
    (s.modPort p f).pending = s.pending := rfl

/-! ## `modChan` -/

@[simp] theorem State.modChan_powered (s : State) (c : Chan) (f : Channel → Channel) :
    (s.modChan c f).powered = s.powered := rfl
@[simp] theorem State.modChan_pins (s : State) (c : Chan) (f : Channel → Channel) :
    (s.modChan c f).pins = s.pins := rfl
@[simp] theorem State.modChan_now (s : State) (c : Chan) (f : Channel → Channel) :
    (s.modChan c f).now = s.now := rfl
@[simp] theorem State.modChan_ports (s : State) (c : Chan) (f : Channel → Channel) :
    (s.modChan c f).ports = s.ports := rfl
@[simp] theorem State.modChan_table (s : State) (c : Chan) (f : Channel → Channel) :
    (s.modChan c f).table = s.table := rfl
@[simp] theorem State.modChan_arbiter (s : State) (c : Chan) (f : Channel → Channel) :
    (s.modChan c f).arbiter = s.arbiter := rfl
@[simp] theorem State.modChan_switches (s : State) (c : Chan) (f : Channel → Channel) :
    (s.modChan c f).switches = s.switches := rfl
@[simp] theorem State.modChan_reflexes (s : State) (c : Chan) (f : Channel → Channel) :
    (s.modChan c f).reflexes = s.reflexes := rfl
@[simp] theorem State.modChan_control (s : State) (c : Chan) (f : Channel → Channel) :
    (s.modChan c f).control = s.control := rfl
@[simp] theorem State.modChan_lampUnit (s : State) (c : Chan) (f : Channel → Channel) :
    (s.modChan c f).lampUnit = s.lampUnit := rfl
@[simp] theorem State.modChan_free (s : State) (c : Chan) (f : Channel → Channel) :
    (s.modChan c f).free = s.free := rfl
@[simp] theorem State.modChan_pending (s : State) (c : Chan) (f : Channel → Channel) :
    (s.modChan c f).pending = s.pending := rfl

/-! ## `modSwitch` -/

@[simp] theorem State.modSwitch_powered (s : State) (n : SwitchNo) (f : Switch → Switch) :
    (s.modSwitch n f).powered = s.powered := rfl
@[simp] theorem State.modSwitch_pins (s : State) (n : SwitchNo) (f : Switch → Switch) :
    (s.modSwitch n f).pins = s.pins := rfl
@[simp] theorem State.modSwitch_now (s : State) (n : SwitchNo) (f : Switch → Switch) :
    (s.modSwitch n f).now = s.now := rfl
@[simp] theorem State.modSwitch_ports (s : State) (n : SwitchNo) (f : Switch → Switch) :
    (s.modSwitch n f).ports = s.ports := rfl
@[simp] theorem State.modSwitch_table (s : State) (n : SwitchNo) (f : Switch → Switch) :
    (s.modSwitch n f).table = s.table := rfl
@[simp] theorem State.modSwitch_channels (s : State) (n : SwitchNo) (f : Switch → Switch) :
    (s.modSwitch n f).channels = s.channels := rfl
@[simp] theorem State.modSwitch_arbiter (s : State) (n : SwitchNo) (f : Switch → Switch) :
    (s.modSwitch n f).arbiter = s.arbiter := rfl
@[simp] theorem State.modSwitch_reflexes (s : State) (n : SwitchNo) (f : Switch → Switch) :
    (s.modSwitch n f).reflexes = s.reflexes := rfl
@[simp] theorem State.modSwitch_control (s : State) (n : SwitchNo) (f : Switch → Switch) :
    (s.modSwitch n f).control = s.control := rfl
@[simp] theorem State.modSwitch_lampUnit (s : State) (n : SwitchNo) (f : Switch → Switch) :
    (s.modSwitch n f).lampUnit = s.lampUnit := rfl
@[simp] theorem State.modSwitch_free (s : State) (n : SwitchNo) (f : Switch → Switch) :
    (s.modSwitch n f).free = s.free := rfl
@[simp] theorem State.modSwitch_pending (s : State) (n : SwitchNo) (f : Switch → Switch) :
    (s.modSwitch n f).pending = s.pending := rfl

/-! ## `modReflex` -/

@[simp] theorem State.modReflex_powered (s : State) (x : ReflexNo) (f : Reflex → Reflex) :
    (s.modReflex x f).powered = s.powered := rfl
@[simp] theorem State.modReflex_pins (s : State) (x : ReflexNo) (f : Reflex → Reflex) :
    (s.modReflex x f).pins = s.pins := rfl
@[simp] theorem State.modReflex_now (s : State) (x : ReflexNo) (f : Reflex → Reflex) :
    (s.modReflex x f).now = s.now := rfl
@[simp] theorem State.modReflex_ports (s : State) (x : ReflexNo) (f : Reflex → Reflex) :
    (s.modReflex x f).ports = s.ports := rfl
@[simp] theorem State.modReflex_table (s : State) (x : ReflexNo) (f : Reflex → Reflex) :
    (s.modReflex x f).table = s.table := rfl
@[simp] theorem State.modReflex_channels (s : State) (x : ReflexNo) (f : Reflex → Reflex) :
    (s.modReflex x f).channels = s.channels := rfl
@[simp] theorem State.modReflex_arbiter (s : State) (x : ReflexNo) (f : Reflex → Reflex) :
    (s.modReflex x f).arbiter = s.arbiter := rfl
@[simp] theorem State.modReflex_switches (s : State) (x : ReflexNo) (f : Reflex → Reflex) :
    (s.modReflex x f).switches = s.switches := rfl
@[simp] theorem State.modReflex_control (s : State) (x : ReflexNo) (f : Reflex → Reflex) :
    (s.modReflex x f).control = s.control := rfl
@[simp] theorem State.modReflex_lampUnit (s : State) (x : ReflexNo) (f : Reflex → Reflex) :
    (s.modReflex x f).lampUnit = s.lampUnit := rfl
@[simp] theorem State.modReflex_free (s : State) (x : ReflexNo) (f : Reflex → Reflex) :
    (s.modReflex x f).free = s.free := rfl
@[simp] theorem State.modReflex_pending (s : State) (x : ReflexNo) (f : Reflex → Reflex) :
    (s.modReflex x f).pending = s.pending := rfl

/-! ## `modLamp` -/

@[simp] theorem State.modLamp_powered (s : State) (l : LampNo) (f : Lamp → Lamp) :
    (s.modLamp l f).powered = s.powered := rfl
@[simp] theorem State.modLamp_pins (s : State) (l : LampNo) (f : Lamp → Lamp) :
    (s.modLamp l f).pins = s.pins := rfl
@[simp] theorem State.modLamp_now (s : State) (l : LampNo) (f : Lamp → Lamp) :
    (s.modLamp l f).now = s.now := rfl
@[simp] theorem State.modLamp_ports (s : State) (l : LampNo) (f : Lamp → Lamp) :
    (s.modLamp l f).ports = s.ports := rfl
@[simp] theorem State.modLamp_table (s : State) (l : LampNo) (f : Lamp → Lamp) :
    (s.modLamp l f).table = s.table := rfl
@[simp] theorem State.modLamp_channels (s : State) (l : LampNo) (f : Lamp → Lamp) :
    (s.modLamp l f).channels = s.channels := rfl
@[simp] theorem State.modLamp_arbiter (s : State) (l : LampNo) (f : Lamp → Lamp) :
    (s.modLamp l f).arbiter = s.arbiter := rfl
@[simp] theorem State.modLamp_switches (s : State) (l : LampNo) (f : Lamp → Lamp) :
    (s.modLamp l f).switches = s.switches := rfl
@[simp] theorem State.modLamp_reflexes (s : State) (l : LampNo) (f : Lamp → Lamp) :
    (s.modLamp l f).reflexes = s.reflexes := rfl
@[simp] theorem State.modLamp_control (s : State) (l : LampNo) (f : Lamp → Lamp) :
    (s.modLamp l f).control = s.control := rfl
@[simp] theorem State.modLamp_free (s : State) (l : LampNo) (f : Lamp → Lamp) :
    (s.modLamp l f).free = s.free := rfl
@[simp] theorem State.modLamp_pending (s : State) (l : LampNo) (f : Lamp → Lamp) :
    (s.modLamp l f).pending = s.pending := rfl

/-! ## `modEntry` -/

@[simp] theorem State.modEntry_powered (s : State) (p : Port) (tag : Byte) (f : Entry → Entry) :
    (s.modEntry p tag f).powered = s.powered := rfl
@[simp] theorem State.modEntry_pins (s : State) (p : Port) (tag : Byte) (f : Entry → Entry) :
    (s.modEntry p tag f).pins = s.pins := rfl
@[simp] theorem State.modEntry_now (s : State) (p : Port) (tag : Byte) (f : Entry → Entry) :
    (s.modEntry p tag f).now = s.now := rfl
@[simp] theorem State.modEntry_ports (s : State) (p : Port) (tag : Byte) (f : Entry → Entry) :
    (s.modEntry p tag f).ports = s.ports := rfl
@[simp] theorem State.modEntry_channels (s : State) (p : Port) (tag : Byte) (f : Entry → Entry) :
    (s.modEntry p tag f).channels = s.channels := rfl
@[simp] theorem State.modEntry_arbiter (s : State) (p : Port) (tag : Byte) (f : Entry → Entry) :
    (s.modEntry p tag f).arbiter = s.arbiter := rfl
@[simp] theorem State.modEntry_switches (s : State) (p : Port) (tag : Byte) (f : Entry → Entry) :
    (s.modEntry p tag f).switches = s.switches := rfl
@[simp] theorem State.modEntry_reflexes (s : State) (p : Port) (tag : Byte) (f : Entry → Entry) :
    (s.modEntry p tag f).reflexes = s.reflexes := rfl
@[simp] theorem State.modEntry_control (s : State) (p : Port) (tag : Byte) (f : Entry → Entry) :
    (s.modEntry p tag f).control = s.control := rfl
@[simp] theorem State.modEntry_lampUnit (s : State) (p : Port) (tag : Byte) (f : Entry → Entry) :
    (s.modEntry p tag f).lampUnit = s.lampUnit := rfl
@[simp] theorem State.modEntry_free (s : State) (p : Port) (tag : Byte) (f : Entry → Entry) :
    (s.modEntry p tag f).free = s.free := rfl
@[simp] theorem State.modEntry_pending (s : State) (p : Port) (tag : Byte) (f : Entry → Entry) :
    (s.modEntry p tag f).pending = s.pending := rfl

/-! ## `freeEntry` -/

@[simp] theorem State.freeEntry_powered (s : State) (p : Port) (tag : Byte) :
    (s.freeEntry p tag).powered = s.powered := rfl
@[simp] theorem State.freeEntry_pins (s : State) (p : Port) (tag : Byte) :
    (s.freeEntry p tag).pins = s.pins := rfl
@[simp] theorem State.freeEntry_now (s : State) (p : Port) (tag : Byte) :
    (s.freeEntry p tag).now = s.now := rfl
@[simp] theorem State.freeEntry_ports (s : State) (p : Port) (tag : Byte) :
    (s.freeEntry p tag).ports = s.ports := rfl
@[simp] theorem State.freeEntry_channels (s : State) (p : Port) (tag : Byte) :
    (s.freeEntry p tag).channels = s.channels := rfl
@[simp] theorem State.freeEntry_arbiter (s : State) (p : Port) (tag : Byte) :
    (s.freeEntry p tag).arbiter = s.arbiter := rfl
@[simp] theorem State.freeEntry_switches (s : State) (p : Port) (tag : Byte) :
    (s.freeEntry p tag).switches = s.switches := rfl
@[simp] theorem State.freeEntry_reflexes (s : State) (p : Port) (tag : Byte) :
    (s.freeEntry p tag).reflexes = s.reflexes := rfl
@[simp] theorem State.freeEntry_control (s : State) (p : Port) (tag : Byte) :
    (s.freeEntry p tag).control = s.control := rfl
@[simp] theorem State.freeEntry_lampUnit (s : State) (p : Port) (tag : Byte) :
    (s.freeEntry p tag).lampUnit = s.lampUnit := rfl
@[simp] theorem State.freeEntry_free (s : State) (p : Port) (tag : Byte) :
    (s.freeEntry p tag).free = s.free := rfl
@[simp] theorem State.freeEntry_pending (s : State) (p : Port) (tag : Byte) :
    (s.freeEntry p tag).pending = s.pending := rfl

/-! ## `decideLines` -/

@[simp] theorem State.decideLines_powered (s : State) : (s.decideLines).powered = s.powered := rfl
@[simp] theorem State.decideLines_pins (s : State) : (s.decideLines).pins = s.pins := rfl
@[simp] theorem State.decideLines_now (s : State) : (s.decideLines).now = s.now := rfl
@[simp] theorem State.decideLines_table (s : State) : (s.decideLines).table = s.table := rfl
@[simp] theorem State.decideLines_channels (s : State) :
    (s.decideLines).channels = s.channels := rfl
@[simp] theorem State.decideLines_arbiter (s : State) : (s.decideLines).arbiter = s.arbiter := rfl
@[simp] theorem State.decideLines_switches (s : State) :
    (s.decideLines).switches = s.switches := rfl
@[simp] theorem State.decideLines_reflexes (s : State) :
    (s.decideLines).reflexes = s.reflexes := rfl
@[simp] theorem State.decideLines_control (s : State) : (s.decideLines).control = s.control := rfl
@[simp] theorem State.decideLines_lampUnit (s : State) :
    (s.decideLines).lampUnit = s.lampUnit := rfl
@[simp] theorem State.decideLines_free (s : State) : (s.decideLines).free = s.free := rfl
@[simp] theorem State.decideLines_pending (s : State) : (s.decideLines).pending = s.pending := rfl

/-! ## `setFaultEdges` -/

@[simp] theorem State.setFaultEdges_powered (s : State) :
    (s.setFaultEdges).powered = s.powered := rfl
@[simp] theorem State.setFaultEdges_pins (s : State) : (s.setFaultEdges).pins = s.pins := rfl
@[simp] theorem State.setFaultEdges_now (s : State) : (s.setFaultEdges).now = s.now := rfl
@[simp] theorem State.setFaultEdges_table (s : State) : (s.setFaultEdges).table = s.table := rfl
@[simp] theorem State.setFaultEdges_channels (s : State) :
    (s.setFaultEdges).channels = s.channels := rfl
@[simp] theorem State.setFaultEdges_arbiter (s : State) :
    (s.setFaultEdges).arbiter = s.arbiter := rfl
@[simp] theorem State.setFaultEdges_switches (s : State) :
    (s.setFaultEdges).switches = s.switches := rfl
@[simp] theorem State.setFaultEdges_reflexes (s : State) :
    (s.setFaultEdges).reflexes = s.reflexes := rfl
@[simp] theorem State.setFaultEdges_control (s : State) :
    (s.setFaultEdges).control = s.control := rfl
@[simp] theorem State.setFaultEdges_lampUnit (s : State) :
    (s.setFaultEdges).lampUnit = s.lampUnit := rfl
@[simp] theorem State.setFaultEdges_free (s : State) : (s.setFaultEdges).free = s.free := rfl
@[simp] theorem State.setFaultEdges_pending (s : State) :
    (s.setFaultEdges).pending = s.pending := rfl

/-! ## `setModeEdges` -/

@[simp] theorem State.setModeEdges_powered (s : State) : (s.setModeEdges).powered = s.powered := rfl
@[simp] theorem State.setModeEdges_pins (s : State) : (s.setModeEdges).pins = s.pins := rfl
@[simp] theorem State.setModeEdges_now (s : State) : (s.setModeEdges).now = s.now := rfl
@[simp] theorem State.setModeEdges_table (s : State) : (s.setModeEdges).table = s.table := rfl
@[simp] theorem State.setModeEdges_channels (s : State) :
    (s.setModeEdges).channels = s.channels := rfl
@[simp] theorem State.setModeEdges_arbiter (s : State) : (s.setModeEdges).arbiter = s.arbiter := rfl
@[simp] theorem State.setModeEdges_switches (s : State) :
    (s.setModeEdges).switches = s.switches := rfl
@[simp] theorem State.setModeEdges_reflexes (s : State) :
    (s.setModeEdges).reflexes = s.reflexes := rfl
@[simp] theorem State.setModeEdges_control (s : State) : (s.setModeEdges).control = s.control := rfl
@[simp] theorem State.setModeEdges_lampUnit (s : State) :
    (s.setModeEdges).lampUnit = s.lampUnit := rfl
@[simp] theorem State.setModeEdges_free (s : State) : (s.setModeEdges).free = s.free := rfl
@[simp] theorem State.setModeEdges_pending (s : State) : (s.setModeEdges).pending = s.pending := rfl

/-! ## Reads after writes -/

@[simp] theorem PerPort.get_set_self {α : Type} (t : PerPort α) (p : Port) (a : α) :
    (t.set p a).get p = a := by cases p <;> rfl

@[simp] theorem PerPort.get_set_ne {α : Type} (t : PerPort α) {p q : Port} (h : p ≠ q) (a : α) :
    (t.set p a).get q = t.get q := by cases p <;> cases q <;> first | rfl | exact absurd rfl h

@[simp] theorem PerPort.set_get {α : Type} (t : PerPort α) (p : Port) : t.set p (t.get p) = t := by
  cases p <;> rfl

@[simp] theorem PerPort.set_set {α : Type} (t : PerPort α) (p : Port) (a b : α) :
    (t.set p a).set p b = t.set p b := by cases p <;> rfl

@[simp] theorem State.port_modPort_self (s : State) (p : Port) (f : PortState → PortState) :
    (s.modPort p f).port p = f (s.port p) := by simp [State.port, State.modPort]

@[simp] theorem State.port_modPort_ne (s : State) {p q : Port} (h : p ≠ q) (f : PortState → PortState) :
    (s.modPort p f).port q = s.port q := by simp [State.port, State.modPort, h]

@[simp] theorem State.modPort_modPort (s : State) (p : Port) (f g : PortState → PortState) :
    (s.modPort p f).modPort p g = s.modPort p (fun ps => g (f ps)) := by simp [State.modPort]

@[simp] theorem State.chan_modChan_self (s : State) (c : Chan) (f : Channel → Channel) :
    (s.modChan c f).chan c = f (s.chan c) := by simp [State.chan, State.modChan]

@[simp] theorem State.chan_modChan_ne (s : State) {c d : Chan} (h : c ≠ d) (f : Channel → Channel) :
    (s.modChan c f).chan d = s.chan d := by
  have h' : c.val ≠ d.val := fun e => h (Fin.ext e)
  simp [State.chan, State.modChan, h']

/-- A channel after a change of one channel. -/
theorem State.chan_modChan (s : State) (c d : Chan) (f : Channel → Channel) :
    (s.modChan c f).chan d = if c = d then f (s.chan c) else s.chan d := by
  by_cases h : c = d
  · subst h; simp
  · simp [h]

@[simp] theorem State.switchAt_modSwitch_self (s : State) (n : SwitchNo) (f : Switch → Switch) :
    (s.modSwitch n f).switchAt n = f (s.switchAt n) := by simp [State.switchAt, State.modSwitch]

@[simp] theorem State.switchAt_modSwitch_ne (s : State) {m n : SwitchNo} (h : m ≠ n)
    (f : Switch → Switch) : (s.modSwitch m f).switchAt n = s.switchAt n := by
  have h' : m.val ≠ n.val := fun e => h (Fin.ext e)
  simp [State.switchAt, State.modSwitch, h']

@[simp] theorem State.reflexAt_modReflex_self (s : State) (x : ReflexNo) (f : Reflex → Reflex) :
    (s.modReflex x f).reflexAt x = f (s.reflexAt x) := by simp [State.reflexAt, State.modReflex]

@[simp] theorem State.reflexAt_modReflex_ne (s : State) {x y : ReflexNo} (h : x ≠ y)
    (f : Reflex → Reflex) : (s.modReflex x f).reflexAt y = s.reflexAt y := by
  have h' : x.val ≠ y.val := fun e => h (Fin.ext e)
  simp [State.reflexAt, State.modReflex, h']

@[simp] theorem State.lamp_modLamp_self (s : State) (l : LampNo) (f : Lamp → Lamp) :
    (s.modLamp l f).lamp l = f (s.lamp l) := by simp [State.lamp, State.modLamp]

@[simp] theorem State.lamp_modLamp_ne (s : State) {k l : LampNo} (h : k ≠ l) (f : Lamp → Lamp) :
    (s.modLamp k f).lamp l = s.lamp l := by
  have h' : k.val ≠ l.val := fun e => h (Fin.ext e)
  simp [State.lamp, State.modLamp, h']

/-! ## Reads that a write of another table does not reach -/

@[simp] theorem State.chan_modPort (s : State) (p : Port) (f : PortState → PortState) (c' : Chan) :
    (s.modPort p f).chan c' = s.chan c' := rfl
@[simp] theorem State.switchAt_modPort (s : State) (p : Port) (f : PortState → PortState) (n' : SwitchNo) :
    (s.modPort p f).switchAt n' = s.switchAt n' := rfl
@[simp] theorem State.reflexAt_modPort (s : State) (p : Port) (f : PortState → PortState) (x' : ReflexNo) :
    (s.modPort p f).reflexAt x' = s.reflexAt x' := rfl
@[simp] theorem State.lamp_modPort (s : State) (p : Port) (f : PortState → PortState) (l' : LampNo) :
    (s.modPort p f).lamp l' = s.lamp l' := rfl
@[simp] theorem State.port_modChan (s : State) (c : Chan) (f : Channel → Channel) (p' : Port) :
    (s.modChan c f).port p' = s.port p' := rfl
@[simp] theorem State.switchAt_modChan (s : State) (c : Chan) (f : Channel → Channel) (n' : SwitchNo) :
    (s.modChan c f).switchAt n' = s.switchAt n' := rfl
@[simp] theorem State.reflexAt_modChan (s : State) (c : Chan) (f : Channel → Channel) (x' : ReflexNo) :
    (s.modChan c f).reflexAt x' = s.reflexAt x' := rfl
@[simp] theorem State.lamp_modChan (s : State) (c : Chan) (f : Channel → Channel) (l' : LampNo) :
    (s.modChan c f).lamp l' = s.lamp l' := rfl
@[simp] theorem State.port_modSwitch (s : State) (n : SwitchNo) (f : Switch → Switch) (p' : Port) :
    (s.modSwitch n f).port p' = s.port p' := rfl
@[simp] theorem State.chan_modSwitch (s : State) (n : SwitchNo) (f : Switch → Switch) (c' : Chan) :
    (s.modSwitch n f).chan c' = s.chan c' := rfl
@[simp] theorem State.reflexAt_modSwitch (s : State) (n : SwitchNo) (f : Switch → Switch) (x' : ReflexNo) :
    (s.modSwitch n f).reflexAt x' = s.reflexAt x' := rfl
@[simp] theorem State.lamp_modSwitch (s : State) (n : SwitchNo) (f : Switch → Switch) (l' : LampNo) :
    (s.modSwitch n f).lamp l' = s.lamp l' := rfl
@[simp] theorem State.port_modReflex (s : State) (x : ReflexNo) (f : Reflex → Reflex) (p' : Port) :
    (s.modReflex x f).port p' = s.port p' := rfl
@[simp] theorem State.chan_modReflex (s : State) (x : ReflexNo) (f : Reflex → Reflex) (c' : Chan) :
    (s.modReflex x f).chan c' = s.chan c' := rfl
@[simp] theorem State.switchAt_modReflex (s : State) (x : ReflexNo) (f : Reflex → Reflex) (n' : SwitchNo) :
    (s.modReflex x f).switchAt n' = s.switchAt n' := rfl
@[simp] theorem State.lamp_modReflex (s : State) (x : ReflexNo) (f : Reflex → Reflex) (l' : LampNo) :
    (s.modReflex x f).lamp l' = s.lamp l' := rfl
@[simp] theorem State.port_modLamp (s : State) (l : LampNo) (f : Lamp → Lamp) (p' : Port) :
    (s.modLamp l f).port p' = s.port p' := rfl
@[simp] theorem State.chan_modLamp (s : State) (l : LampNo) (f : Lamp → Lamp) (c' : Chan) :
    (s.modLamp l f).chan c' = s.chan c' := rfl
@[simp] theorem State.switchAt_modLamp (s : State) (l : LampNo) (f : Lamp → Lamp) (n' : SwitchNo) :
    (s.modLamp l f).switchAt n' = s.switchAt n' := rfl
@[simp] theorem State.reflexAt_modLamp (s : State) (l : LampNo) (f : Lamp → Lamp) (x' : ReflexNo) :
    (s.modLamp l f).reflexAt x' = s.reflexAt x' := rfl
@[simp] theorem State.port_modEntry (s : State) (p : Port) (tag : Byte) (f : Entry → Entry) (p' : Port) :
    (s.modEntry p tag f).port p' = s.port p' := rfl
@[simp] theorem State.chan_modEntry (s : State) (p : Port) (tag : Byte) (f : Entry → Entry) (c' : Chan) :
    (s.modEntry p tag f).chan c' = s.chan c' := rfl
@[simp] theorem State.switchAt_modEntry (s : State) (p : Port) (tag : Byte) (f : Entry → Entry) (n' : SwitchNo) :
    (s.modEntry p tag f).switchAt n' = s.switchAt n' := rfl
@[simp] theorem State.reflexAt_modEntry (s : State) (p : Port) (tag : Byte) (f : Entry → Entry) (x' : ReflexNo) :
    (s.modEntry p tag f).reflexAt x' = s.reflexAt x' := rfl
@[simp] theorem State.lamp_modEntry (s : State) (p : Port) (tag : Byte) (f : Entry → Entry) (l' : LampNo) :
    (s.modEntry p tag f).lamp l' = s.lamp l' := rfl
@[simp] theorem State.port_freeEntry (s : State) (p : Port) (tag : Byte) (p' : Port) :
    (s.freeEntry p tag).port p' = s.port p' := rfl
@[simp] theorem State.chan_freeEntry (s : State) (p : Port) (tag : Byte) (c' : Chan) :
    (s.freeEntry p tag).chan c' = s.chan c' := rfl
@[simp] theorem State.switchAt_freeEntry (s : State) (p : Port) (tag : Byte) (n' : SwitchNo) :
    (s.freeEntry p tag).switchAt n' = s.switchAt n' := rfl
@[simp] theorem State.reflexAt_freeEntry (s : State) (p : Port) (tag : Byte) (x' : ReflexNo) :
    (s.freeEntry p tag).reflexAt x' = s.reflexAt x' := rfl
@[simp] theorem State.lamp_freeEntry (s : State) (p : Port) (tag : Byte) (l' : LampNo) :
    (s.freeEntry p tag).lamp l' = s.lamp l' := rfl
@[simp] theorem State.chan_decideLines (s : State) (c' : Chan) :
    (s.decideLines).chan c' = s.chan c' := rfl
@[simp] theorem State.switchAt_decideLines (s : State) (n' : SwitchNo) :
    (s.decideLines).switchAt n' = s.switchAt n' := rfl
@[simp] theorem State.reflexAt_decideLines (s : State) (x' : ReflexNo) :
    (s.decideLines).reflexAt x' = s.reflexAt x' := rfl
@[simp] theorem State.lamp_decideLines (s : State) (l' : LampNo) :
    (s.decideLines).lamp l' = s.lamp l' := rfl
@[simp] theorem State.chan_setFaultEdges (s : State) (c' : Chan) :
    (s.setFaultEdges).chan c' = s.chan c' := rfl
@[simp] theorem State.switchAt_setFaultEdges (s : State) (n' : SwitchNo) :
    (s.setFaultEdges).switchAt n' = s.switchAt n' := rfl
@[simp] theorem State.reflexAt_setFaultEdges (s : State) (x' : ReflexNo) :
    (s.setFaultEdges).reflexAt x' = s.reflexAt x' := rfl
@[simp] theorem State.lamp_setFaultEdges (s : State) (l' : LampNo) :
    (s.setFaultEdges).lamp l' = s.lamp l' := rfl
@[simp] theorem State.chan_setModeEdges (s : State) (c' : Chan) :
    (s.setModeEdges).chan c' = s.chan c' := rfl
@[simp] theorem State.switchAt_setModeEdges (s : State) (n' : SwitchNo) :
    (s.setModeEdges).switchAt n' = s.switchAt n' := rfl
@[simp] theorem State.reflexAt_setModeEdges (s : State) (x' : ReflexNo) :
    (s.setModeEdges).reflexAt x' = s.reflexAt x' := rfl
@[simp] theorem State.lamp_setModeEdges (s : State) (l' : LampNo) :
    (s.setModeEdges).lamp l' = s.lamp l' := rfl
@[simp] theorem State.time_modPort (s : State) (p : Port) (f : PortState → PortState) :
    (s.modPort p f).time = s.time := rfl
@[simp] theorem State.railOn_modPort (s : State) (p : Port) (f : PortState → PortState) :
    (s.modPort p f).railOn = s.railOn := rfl
@[simp] theorem State.time_modChan (s : State) (c : Chan) (f : Channel → Channel) :
    (s.modChan c f).time = s.time := rfl
@[simp] theorem State.railOn_modChan (s : State) (c : Chan) (f : Channel → Channel) :
    (s.modChan c f).railOn = s.railOn := rfl
@[simp] theorem State.time_modSwitch (s : State) (n : SwitchNo) (f : Switch → Switch) :
    (s.modSwitch n f).time = s.time := rfl
@[simp] theorem State.railOn_modSwitch (s : State) (n : SwitchNo) (f : Switch → Switch) :
    (s.modSwitch n f).railOn = s.railOn := rfl
@[simp] theorem State.time_modReflex (s : State) (x : ReflexNo) (f : Reflex → Reflex) :
    (s.modReflex x f).time = s.time := rfl
@[simp] theorem State.railOn_modReflex (s : State) (x : ReflexNo) (f : Reflex → Reflex) :
    (s.modReflex x f).railOn = s.railOn := rfl
@[simp] theorem State.time_modLamp (s : State) (l : LampNo) (f : Lamp → Lamp) :
    (s.modLamp l f).time = s.time := rfl
@[simp] theorem State.railOn_modLamp (s : State) (l : LampNo) (f : Lamp → Lamp) :
    (s.modLamp l f).railOn = s.railOn := rfl
@[simp] theorem State.time_modEntry (s : State) (p : Port) (tag : Byte) (f : Entry → Entry) :
    (s.modEntry p tag f).time = s.time := rfl
@[simp] theorem State.railOn_modEntry (s : State) (p : Port) (tag : Byte) (f : Entry → Entry) :
    (s.modEntry p tag f).railOn = s.railOn := rfl
@[simp] theorem State.time_freeEntry (s : State) (p : Port) (tag : Byte) :
    (s.freeEntry p tag).time = s.time := rfl
@[simp] theorem State.railOn_freeEntry (s : State) (p : Port) (tag : Byte) :
    (s.freeEntry p tag).railOn = s.railOn := rfl
@[simp] theorem State.time_decideLines (s : State) : (s.decideLines).time = s.time := rfl
@[simp] theorem State.railOn_decideLines (s : State) : (s.decideLines).railOn = s.railOn := rfl
@[simp] theorem State.time_setFaultEdges (s : State) : (s.setFaultEdges).time = s.time := rfl
@[simp] theorem State.railOn_setFaultEdges (s : State) : (s.setFaultEdges).railOn = s.railOn := rfl
@[simp] theorem State.time_setModeEdges (s : State) : (s.setModeEdges).time = s.time := rfl
@[simp] theorem State.railOn_setModeEdges (s : State) : (s.setModeEdges).railOn = s.railOn := rfl

end Sys2Proof.Machine
end

