-- ==== Sys2Proof/Laws/Kept.lean ====
section
/-!
SUPPORT. What every event keeps, said once. `KeptCore P` lists the few writes of the state that the order
pipeline, the arbiter, the pulses and the lamps are made of; `KeptPorts P` adds those of a port's own record,
`Kept P` those of the mode controller, the settings and the resets, so that a property that survives each of
them survives every event of the part;
`KeptByAll P` adds the supply, the pins and the tick, so that it survives every command
(`KeptByAll.exec`).
-/

namespace Sys2Proof.Machine

/-! ## The writes -/

/-- A write of a port's record that leaves it in range. -/
def PortStep (a b : PortState) : Prop := a.inRange → b.inRange

/-- A write of a port's record by the order pipeline or by an event: it leaves the record in range, the
link, the comparator, the switch records and the settings in place, and no edge flag cleared. -/
def CoreStep (a b : PortState) : Prop :=
  PortStep a b ∧ b.link = a.link ∧ b.comparator = a.comparator ∧ b.switches = a.switches
    ∧ b.attention.priorities = a.attention.priorities ∧ b.attention.threshold = a.attention.threshold
    ∧ b.attention.lowMark = a.attention.lowMark
    ∧ (a.attention.faultEdge = true → b.attention.faultEdge = true)
    ∧ (a.attention.modeEdge = true → b.attention.modeEdge = true)

/-- A write of the pending table that leaves every port within its quota. -/
def TableStep (a b : List Entry) : Prop :=
  ∀ p : Port, (a.filter (·.port == p)).length ≤ 16 → (b.filter (·.port == p)).length ≤ 16

/-- Two channels that agree in all that heat and draw are computed from. -/
def SameCoil (a b : Channel) : Prop :=
  a.profile = b.profile ∧ a.phase = b.phase ∧ a.effectiveFold = b.effectiveFold ∧ a.heat = b.heat
    ∧ a.heatAt = b.heatAt

/-- A write of the mode controller that leaves the later count in range. -/
def ControlStep (a b : Control) : Prop :=
  (∀ r, a.alarm = some r → r.laterCount ≤ 255) → ∀ r, b.alarm = some r → r.laterCount ≤ 255

/-- The configuration of the lamp unit in range. -/
def LampUnit.inRange (u : LampUnit) : Prop :=
  (100 ≤ u.inrushTime ∧ u.inrushTime ≤ 2000) ∧ (1 ≤ u.slotLimit ∧ u.slotLimit ≤ 16)

/-- A property that survives the writes of the order pipeline, the arbiter, the pulses and the lamps. -/
structure KeptCore (P : State → Prop) : Prop where
  ports : ∀ s v, (∀ q, CoreStep (s.port q) (v.get q)) → P s → P { s with ports := v }
  table : ∀ s v, TableStep s.table v → P s → P { s with table := v }
  coil : ∀ s c ph g, (∀ ch, SameCoil (g ch) ch) →
    ((s.chan c).coherent → (g { (s.chan c).updateHeat s.now with phase := ph }).coherent) →
    (ph.isLive = true → (s.chan c).phase.isLive = true ∨ s.railOn = true) →
    P s → P ((s.setPhase c ph).modChan c g)
  note : ∀ s c g, (∀ ch, SameCoil (g ch) ch) →
    ((s.chan c).coherent → (g (s.chan c)).coherent) → P s → P (s.modChan c g)
  heat : ∀ s c, P s → P (s.updateHeat c)
  list : ∀ s l j, P s → P { s with arbiter := { s.arbiter with list := l, joins := j } }
  reflexes : ∀ s v, P s → P { s with reflexes := v }
  lamps : ∀ s v, (s.lampUnit.inRange → v.inRange) → P s → P { s with lampUnit := v }
  free : ∀ s v, P s → P { s with free := v }

/-- A property that also survives every write of a port's own record. -/
structure KeptPorts (P : State → Prop) : Prop extends KeptCore P where
  port : ∀ s v, (∀ q, PortStep (s.port q) (v.get q)) → P s → P { s with ports := v }

/-- A property that survives the writes of every event but the supply, the pins and the tick. -/
structure Kept (P : State → Prop) : Prop extends KeptPorts P where
  profile : ∀ s c r, (s.chan c).phase.hasPulse = false → P s →
    P (s.modChan c fun ch =>
      { ch with profile := clampProfile r, effectiveFold := (clampProfile r).foldDutyInForce })
  shorts : ∀ s, P s → P { s with channels := mapTable s.channels fun ch => { ch with shortAt := none } }
  rail : ∀ s b v, v ≤ b → b ≤ 255 → P s → P { s with arbiter := { s.arbiter with budget := b, reserve := v } }
  switches : ∀ s v, P s → P { s with switches := v }
  control : ∀ s v, ControlStep s.control v → P s → P { s with control := v }
  reset : ∀ s, P s → P s.tableReset

/-- A property that survives every command: the writes of events, the pins, the supply and the tick. -/
structure KeptByAll (P : State → Prop) : Prop extends Kept P where
  pins : ∀ s v, P s → P { s with pins := v }
  powerOn : ∀ s, P s → P s.powerOn
  powerOff : ∀ s, P s → P s.powerOff
  tick : ∀ s, P s → P { s with now := s.now + 1 }

namespace KeptCore

variable {P : State → Prop}

theorem foldl {α : Type} {f : State → α → State} (h : ∀ s a, P s → P (f s a)) (l : List α) :
    ∀ s, P s → P (l.foldl f s) := by
  induction l with
  | nil => exact fun _ hs => hs
  | cons a l ih => exact fun s hs => ih _ (h s a hs)

variable (K : KeptCore P)
include K

/-! ## The named updates -/

theorem modQueues {s : State} (p : Port) (f : PortState → PortState)
    (h : CoreStep (s.port p) (f (s.port p))) (hs : P s) : P (s.modPort p f) := by
  refine K.ports s _ (fun q => ?_) hs
  by_cases hq : p = q
  · subst hq; simpa [State.port] using h
  · rw [PerPort.get_set_ne _ hq]; exact ⟨id, rfl, rfl, rfl, rfl, rfl, rfl, id, id⟩

theorem modReflex {s : State} (x : ReflexNo) (f : Reflex → Reflex) (hs : P s) : P (s.modReflex x f) :=
  K.reflexes s _ hs

theorem modLamp {s : State} (l : LampNo) (f : Lamp → Lamp) (hs : P s) : P (s.modLamp l f) :=
  K.lamps s _ id hs

theorem modEntry {s : State} (p : Port) (tag : Byte) (f : Entry → Entry) (h : ∀ e, (f e).port = e.port)
    (hs : P s) : P (s.modEntry p tag f) := by
  refine K.table s _ (fun q hq => ?_) hs
  have : ∀ l : List Entry,
      ((l.map fun e => if e.is p tag then f e else e).filter (·.port == q)).length
        = (l.filter (·.port == q)).length := by
    intro l
    induction l with
    | nil => rfl
    | cons e l ih =>
      have hp : (if e.is p tag then f e else e).port = e.port := by split <;> simp [h]
      simp only [List.map_cons, List.filter_cons, hp]
      split <;> simp [ih]
  exact this s.table ▸ hq

theorem tableFilter {s : State} (f : Entry → Bool) (hs : P s) :
    P { s with table := s.table.filter f } := by
  refine K.table s _ (fun q hq => le_trans ?_ hq) hs
  rw [List.filter_filter, ← List.filter_filter, List.filter_comm]
  exact List.length_filter_le _ _

theorem freeEntry {s : State} (p : Port) (tag : Byte) (hs : P s) : P (s.freeEntry p tag) :=
  K.tableFilter _ hs

/-- A note on a channel that leaves in place its fault record and what its pulse record latched. -/
theorem noteOn {s : State} (c : Chan) (g : Channel → Channel) (h : ∀ ch, SameCoil (g ch) ch)
    (h' : ∀ ch, (g ch).pulse.map (·.latched) = ch.pulse.map (·.latched) ∧ (g ch).fault = ch.fault)
    (hs : P s) : P (s.modChan c g) := by
  refine K.note s c g h (fun hc => ?_) hs
  obtain ⟨h1, h2⟩ := h' (s.chan c)
  obtain ⟨h3, h4, h5⟩ := hc
  have hp := (h (s.chan c)).2.1
  have hi : (g (s.chan c)).pulse.isSome = (s.chan c).pulse.isSome := by
    have := congrArg Option.isSome h1
    simpa using this
  refine ⟨by rw [hi, hp, h3], by rw [h2, hp, h4], fun pu hpu hl => ?_⟩
  rw [hpu] at h1
  rw [hp] at hl
  cases hq : (s.chan c).pulse with
  | none => rw [hq] at h1; cases h1
  | some pv =>
    rw [hq] at h1
    exact (Option.some.inj h1).trans (h5 pv hq hl)

/-- A change of a channel's pulse record that keeps what it latched. -/
theorem modPulse {s : State} (c : Chan) (f : Pulse → Pulse) (hf : ∀ pu, (f pu).latched = pu.latched)
    (hs : P s) : P (s.modPulse c f) :=
  K.noteOn c _ (fun _ => ⟨rfl, rfl, rfl, rfl, rfl⟩)
    (fun ch => ⟨by cases ch.pulse <;> simp [hf], rfl⟩) hs

end KeptCore

theorem KeptPorts.modPort {P : State → Prop} (K : KeptPorts P) {s : State} (p : Port)
    (f : PortState → PortState) (h : PortStep (s.port p) (f (s.port p))) (hs : P s) :
    P (s.modPort p f) := by
  refine K.port s _ (fun q => ?_) hs
  by_cases hq : p = q
  · subst hq; simpa [State.port] using h
  · rw [PerPort.get_set_ne _ hq]; exact id

theorem Kept.modSwitch {P : State → Prop} (K : Kept P) {s : State} (n : SwitchNo) (f : Switch → Switch)
    (hs : P s) : P (s.modSwitch n f) :=
  K.switches s _ hs

end Sys2Proof.Machine
end

