-- ==== Sys2Proof/Laws/KeptOrders.lean ====
section
/-!
SUPPORT. The order pipeline, the arbiter and the pulses keep every property that survives the writes of
`KeptCore`.
-/

namespace Sys2Proof.Machine.KeptCore

variable {P : State → Prop} (K : KeptCore P)
include K

/-! ## Owners -/

theorem tellHeatWait {s : State} (o : Owner) (hs : P s) : P (s.tellHeatWait o) := by
  unfold State.tellHeatWait
  cases o with
  | order p tag => exact K.modEntry p tag _ (fun _ => rfl) hs
  | reflex x => exact K.modReflex x _ hs

theorem tellRailWait {s : State} (o : Owner) (hs : P s) : P (s.tellRailWait o) := by
  unfold State.tellRailWait
  cases o with
  | order p tag => exact K.modEntry p tag _ (fun _ => rfl) hs
  | reflex x => exact K.modReflex x _ hs

theorem tellFold {s : State} (o : Owner) (hs : P s) : P (s.tellFold o) := by
  unfold State.tellFold
  cases o with
  | order p tag => exact K.modEntry p tag _ (fun _ => rfl) hs
  | reflex x => exact K.modReflex x _ hs

omit K in
theorem moveTo_port (e : Entry) (stage : Stage) : (e.moveTo stage).port = e.port := by
  unfold Entry.moveTo; split <;> rfl

theorem tellKick {s : State} (o : Owner) (hs : P s) : P (s.tellKick o) := by
  unfold State.tellKick
  cases o with
  | order p tag => exact K.modEntry p tag _ (fun e => moveTo_port e _) hs
  | reflex x => exact K.modReflex x _ hs

theorem dropRequest {s : State} (x : ReflexNo) (cause : DropCause) (hs : P s) :
    P (s.dropRequest x cause) := K.modReflex x _ hs

/-! ## The arbiter -/

theorem grant {s : State} (m : Member) (hm : (s.chan m.channel).phase = .idle) (hr : s.railOn = true)
    (hs : P s) : P (s.grant m) := by
  refine K.tellKick _ (K.coil s _ _ _ (fun _ => ⟨rfl, rfl, rfl, rfl, rfl⟩) (fun hc => ?_)
    (fun _ => .inr hr) hs)
  obtain ⟨_, h2, _⟩ := hc
  rw [hm] at h2
  exact ⟨rfl, h2, fun pu h _ => by cases h; rfl⟩

theorem examineFrom (l : List Member) : ∀ s, P s → P (Machine.examineFrom l s) := by
  induction l with
  | nil => exact fun s hs => hs
  | cons m rest ih =>
    intro s hs
    rw [Machine.examineFrom]
    split
    · rename_i h
      simp only [Bool.and_eq_true, beq_iff_eq] at h
      exact ih _ (K.grant m h.2 h.1.1 (K.list s rest _ hs))
    · exact hs

theorem examine {s : State} (hs : P s) : P s.examine := K.examineFrom _ s hs

theorem examineIf {s : State} (ex : Bool) (hs : P s) : P (s.examineIf ex) := by
  cases ex
  · exact hs
  · exact K.examine hs

theorem setFront {s : State} (c : Chan) (fr : Front) (hs : P s) :
    P (s.modChan c fun ch => { ch with front := fr }) :=
  K.noteOn c _ (fun _ => ⟨rfl, rfl, rfl, rfl, rfl⟩) (fun _ => ⟨rfl, rfl⟩) hs

theorem join {s : State} (ex : Bool) (c : Chan) (q : QueueMember) (hs : P s) : P (s.join ex c q) := by
  have h2 := K.list _ (insertMember
      { channel := c, owner := q.owner, priority := q.priority, draw := (s.chan c).profile.kickDraw,
        join := s.arbiter.joins } s.arbiter.list) (s.arbiter.joins + 1) (K.setFront c .admission hs)
  cases ex
  · exact h2
  · simp only [State.join, if_true]
    split
    · exact K.tellRailWait _ (K.examine h2)
    · exact K.examine h2

theorem depart {s : State} (ex : Bool) (c : Chan) (hs : P s) : P (s.depart ex c) := by
  unfold State.depart
  split
  · exact K.examineIf ex (K.list s _ _ hs)
  · exact hs

theorem kickTest {s : State} (ex : Bool) (c : Chan) (hs : P s) : P (s.kickTest ex c) := by
  unfold State.kickTest
  split
  · exact hs
  · simp only
    split
    · exact K.join ex c _ (K.heat s c hs)
    · exact K.tellHeatWait _ (K.setFront c _ (K.heat s c hs))

theorem tellRailWaits {s : State} (l : List Member) (hs : P s) : P (s.tellRailWaits l) :=
  foldl (fun _ (m : Member) h => K.tellRailWait m.owner h) l _ hs

theorem displace {s : State} (ex : Bool) (c : Chan) (hs : P s) : P (s.displace ex c) := by
  unfold State.displace
  cases ex
  · exact K.depart false c (K.setFront c _ (K.tellRailWaits _ hs))
  · exact K.depart true c (K.setFront c _ hs)

/-! ## The channel queue -/

theorem leaveQueue {s : State} (ex : Bool) (c : Chan) (o : Owner) (hs : P s) :
    P (s.leaveQueue ex c o) := by
  have h1 := K.noteOn (s := s) c
    (fun ch => { ch with
      queue := ch.queue.filter fun q => q.owner != o
      front := if (s.chan c).isTestingFront o then .channelWait else ch.front })
    (fun _ => ⟨rfl, rfl, rfl, rfl, rfl⟩) (fun _ => ⟨rfl, rfl⟩) hs
  unfold State.leaveQueue
  simp only
  split
  · rename_i h
    rw [h] at h1
    exact K.depart ex c h1
  · rename_i h
    rw [Bool.not_eq_true] at h
    rw [h] at h1
    exact h1

theorem enqueue {s : State} (ex : Bool) (c : Chan) (q : QueueMember) (hs : P s) :
    P (Machine.enqueue ex c q s).state := by
  have h1 := K.noteOn (s := s) c (fun ch => { ch with queue := insertQueue q ch.queue })
    (fun _ => ⟨rfl, rfl, rfl, rfl, rfl⟩) (fun _ => ⟨rfl, rfl⟩) hs
  unfold Machine.enqueue
  simp only
  split
  · exact K.displace ex c h1
  · exact h1

theorem setArrivals {s : State} (c : Chan) (a : Nat) (hs : P s) :
    P (s.modChan c fun ch => { ch with arrivals := a }) :=
  K.noteOn c _ (fun _ => ⟨rfl, rfl, rfl, rfl, rfl⟩) (fun _ => ⟨rfl, rfl⟩) hs

/-! ## The parts of an event -/

theorem offer {s : State} (ex : Bool) (cs : List Chan) (hs : P s) : P (Machine.offer ex cs s).state := by
  unfold Machine.offer
  split
  · exact hs
  · split
    · exact hs
    · split
      · exact K.kickTest ex _ hs
      · simp only
        split
        · exact K.leaveQueue ex _ _ hs
        · exact K.dropRequest _ _ (K.leaveQueue ex _ _ hs)

theorem arrive {s : State} (ex : Bool) (p : Port) (tag : Byte) (hs : P s) :
    P (Machine.arrive ex p tag s).state := by
  unfold Machine.arrive
  split
  · exact hs
  · simp only
    split
    · exact hs
    · exact hs
    · exact K.enqueue ex _ _ (K.setArrivals _ _ (K.modEntry p tag _ (fun e => moveTo_port e _) hs))

theorem ready {s : State} (p : Port) (tag : Byte) (hs : P s) : P (Machine.ready p tag s).state := by
  unfold Machine.ready
  split
  · exact hs
  · split
    · exact hs
    · split
      · exact hs
      · exact K.modEntry p tag _ (fun e => moveTo_port e _) hs

theorem conclude {s : State} (e : Entry) (status : EndStatus) (hs : P s) : P (s.conclude e status) := by
  have h1 := K.modQueues (s := s) e.port
    (fun ps => { ps with tail := ps.tail.atEnd e.order.tag status.good })
    ⟨fun h => h, rfl, rfl, rfl, rfl, rfl, rfl, id, id⟩ hs
  unfold State.conclude
  simp only
  split
  · exact K.freeEntry _ _ h1
  · split
    · rename_i h
      refine K.freeEntry _ _ (K.modQueues _ _ ⟨fun hr => ?_, rfl, rfl, rfl, rfl, rfl, rfl, id, id⟩ h1)
      obtain ⟨a, b, c, d⟩ := hr
      simp only [PortState.recordEnters, Bool.and_eq_true, decide_eq_true_eq] at h
      refine ⟨a, b, ?_, d⟩
      have := h.1
      simp only [Config.completionSize] at this
      simp only [List.length_append, List.length_singleton]
      omega
    · exact K.modEntry _ _ _ (fun _ => rfl) (K.modQueues _ _ ⟨fun h => h, rfl, rfl, rfl, rfl, rfl, rfl, id, id⟩ h1)

theorem finish {s : State} (ex : Bool) (p : Port) (tag : Byte) (status : EndStatus) (hs : P s) :
    P (Machine.finish ex p tag status s).state := by
  unfold Machine.finish
  split
  · exact hs
  · exact K.conclude _ _ (K.leaveQueue ex _ _ hs)

theorem takeHead {s : State} (p : Port) (hs : P s) : P (Machine.takeHead p s).state := by
  unfold Machine.takeHead
  simp only
  split
  · exact hs
  · rename_i slot rest hslots
    split
    · rename_i hq
      simp only
      have h1 := K.modQueues (s := s) p
        (fun ps => { ps with
          ring := ⟨(ps.ring.head + 1) % Config.ringSize, rest⟩
          tail := ⟨some slot.order.tag, .live⟩ })
        ⟨fun hr => by
          obtain ⟨a, _, c⟩ := hr
          rw [hslots] at a
          simp only [List.length_cons] at a
          refine ⟨?_, Nat.mod_lt _ (by decide), c⟩
          show rest.length ≤ 32
          omega, rfl, rfl, rfl, rfl, rfl, rfl, id, id⟩ hs
      refine K.table _ _ (fun q hle => ?_) h1
      simp only [State.modPort_table, State.entriesOf, Config.quota] at hq hle ⊢
      rw [List.filter_append, List.length_append]
      by_cases hpq : p = q
      · subst hpq
        have : ((([Entry.taken p slot.order
          (takeOutcome p slot (s.port p).tail).1] : List Entry).filter (·.port == p)).length) ≤ 1 :=
          List.length_filter_le _ _
        omega
      · have : (([Entry.taken p slot.order
          (takeOutcome p slot (s.port p).tail).1] : List Entry).filter (·.port == q)) = [] := by
          simp [Entry.taken, hpq]
        rw [this]
        simpa using hle
    · exact hs

theorem run {s : State} (ex : Bool) (w : Work) (hs : P s) : P (w.run ex s).state := by
  cases w with
  | offer cs => exact K.offer ex cs hs
  | finish p tag status => exact K.finish ex p tag status hs
  | ready p tag => exact K.ready p tag hs
  | arrive p tag => exact K.arrive ex p tag hs
  | takes p => exact K.takeHead p hs

theorem doWork (ex : Bool) (n : Nat) : ∀ ws s, P s → P (Machine.doWork ex n ws s) := by
  induction n with
  | zero => exact fun _ _ hs => hs
  | succ n ih =>
    intro ws s hs
    cases ws with
    | nil => exact hs
    | cons w ws => exact ih _ _ (K.run ex w hs)

theorem doAll {s : State} (ex : Bool) (ws : List Work) (hs : P s) : P (s.doAll ex ws) :=
  K.doWork ex _ ws s hs

/-! ## Pulses -/

theorem stopPulse {s : State} (c : Chan) (latch : Option FaultKind)
    (hc : (s.chan c).phase.hasPulse = true) (hs : P s) : P (s.stopPulse c latch) := by
  unfold State.stopPulse State.modPulse
  refine K.coil s c _ _ (fun _ => ⟨rfl, rfl, rfl, rfl, rfl⟩) (fun h => ?_) (fun h => by cases h) hs
  obtain ⟨h1, h2, _⟩ := h
  rw [hc] at h1
  have h3 : ((s.chan c).phase == .faulted) = false := by
    revert hc; cases (s.chan c).phase <;> simp [Phase.hasPulse]
  rw [h3] at h2
  exact ⟨by simpa [Channel.updateHeat, Phase.hasPulse] using h1, h2, fun _ _ hl => by cases hl⟩

theorem reflexPulseEnd {s : State} (x : ReflexNo) (cause : Cause) (hs : P s) :
    P (s.reflexPulseEnd x cause) := K.modReflex x _ hs

theorem reflexRecycleEnd {s : State} (x : ReflexNo) (hs : P s) : P (s.reflexRecycleEnd x) :=
  K.modReflex x _ hs

theorem tellPulseEnd {s : State} (c : Chan) (cause : Cause) (hs : P s) :
    P (s.tellPulseEnd c cause).2 := by
  unfold State.tellPulseEnd
  split
  · exact hs
  · split
    · split
      · simp only
        split
        · exact K.modEntry _ _ _ (fun _ => rfl) hs
        · exact K.modPulse c _ (fun _ => rfl) (K.modEntry _ _ _ (fun _ => rfl) hs)
      · exact K.reflexPulseEnd _ _ hs
    · exact hs

theorem startShort {s : State} (c : Chan) (hs : P s) : P (s.startShort c) := by
  unfold State.startShort
  split
  · exact K.noteOn c _ (fun _ => ⟨rfl, rfl, rfl, rfl, rfl⟩) (fun _ => ⟨rfl, rfl⟩) hs
  · exact hs

theorem trainStep {s : State} (c : Chan) (e : Entry) (faulted : Bool) (hs : P s) :
    P (s.trainStep c e faulted).2 := by
  unfold State.trainStep
  simp only
  repeat' split
  all_goals first
    | exact hs
    | (refine K.noteOn c (fun ch => { ch with queue := insertQueue _ ch.queue })
        (fun _ => ⟨rfl, rfl, rfl, rfl, rfl⟩) (fun _ => ⟨rfl, rfl⟩) ?_
       exact K.modEntry _ _ _ (fun e => moveTo_port e _) hs)

theorem tellRecycleEnd {s : State} (c : Chan) (pu : Pulse) (faulted : Bool) (hs : P s) :
    P (s.tellRecycleEnd c pu faulted).2 := by
  unfold State.tellRecycleEnd
  split
  · split
    · split
      · exact K.trainStep c _ faulted hs
      · exact hs
    · exact K.reflexRecycleEnd _ hs
  · exact hs

theorem withdrawRequests {s : State} (c : Chan) (cause : DropCause) (hs : P s) :
    P (s.withdrawRequests c cause) := by
  unfold State.withdrawRequests
  refine foldl (fun s q hs => ?_) _ _
    (K.noteOn c _ (fun _ => ⟨rfl, rfl, rfl, rfl, rfl⟩) (fun _ => ⟨rfl, rfl⟩) hs)
  cases q.owner with
  | order p tag => exact hs
  | reflex x => exact K.dropRequest x cause hs

theorem setFaultEdges {s : State} (hs : P s) : P s.setFaultEdges :=
  K.ports s _ (fun q => by
    cases q <;> exact ⟨fun h => h, rfl, rfl, rfl, rfl, rfl, rfl, by
      simp [PerPort.get, State.port], by simp [PerPort.get, State.port]⟩) hs

theorem setModeEdges {s : State} (hs : P s) : P s.setModeEdges :=
  K.ports s _ (fun q => by
    cases q <;> exact ⟨fun h => h, rfl, rfl, rfl, rfl, rfl, rfl, by
      simp [PerPort.get, State.port], by simp [PerPort.get, State.port]⟩) hs

theorem decideLines {s : State} (hs : P s) : P s.decideLines :=
  K.ports s _ (fun q => by
    cases q <;> exact ⟨fun h => h, rfl, rfl, rfl, rfl, rfl, rfl, by
      simp [PerPort.get, State.port, PortState.decideLine], by simp [PerPort.get, State.port, PortState.decideLine]⟩) hs

theorem recycleOver {s : State} (c : Chan) (hs : P s) : P (s.recycleOver c).2 := by
  unfold State.recycleOver
  split
  · exact hs
  · rename_i pu hpu
    have hno : (s.chan c).coherent → ((s.chan c).phase == .faulted) = false := by
      intro h
      have h1 := h.1
      rw [hpu] at h1
      revert h1; cases (s.chan c).phase <;> simp [Phase.hasPulse]
    split
    · refine K.tellRecycleEnd c pu false (K.startShort c
        (K.coil s c _ _ (fun _ => ⟨rfl, rfl, rfl, rfl, rfl⟩) (fun h => ?_) (fun h => by cases h) hs))
      have h2 := h.2.1
      rw [hno h] at h2
      exact ⟨rfl, h2, fun _ h => by cases h⟩
    · exact K.setFaultEdges (K.withdrawRequests c _ (K.tellRecycleEnd c pu true (K.startShort c
        (K.coil s c _ _ (fun _ => ⟨rfl, rfl, rfl, rfl, rfl⟩) (fun _ => ⟨rfl, rfl, fun _ h => by cases h⟩)
          (fun h => by cases h) hs))))

theorem recycleEnd {s : State} (c : Chan) (hs : P s) : P (s.recycleEnd c) :=
  K.doAll true _ (K.doAll true _ (K.recycleOver c hs))

theorem endPulse {s : State} (c : Chan) (cause : Cause) (latch : Option FaultKind)
    (hc : (s.chan c).phase.hasPulse = true) (hs : P s) : P (s.endPulse c cause latch) := by
  have h3 := K.doAll true (((s.stopPulse c latch).examineIf (0 < (s.chan c).draw)).tellPulseEnd c cause).1
    (K.tellPulseEnd c cause (K.examineIf (0 < (s.chan c).draw) (K.stopPulse c latch hc hs)))
  unfold State.endPulse
  simp only
  split
  · exact K.recycleEnd c h3
  · exact h3

omit K in
theorem hasPulse_of_isLive {ph : Phase} (h : ph.isLive = true) : ph.hasPulse = true := by
  revert h; cases ph <;> simp [Phase.isLive, Phase.hasPulse]

/-- A change from one state with a pulse to another. -/
theorem setPhaseLive {s : State} (c : Chan) (ph : Phase) (hl : (s.chan c).phase.isLive = true)
    (hp : ph.hasPulse = true) (hs : P s) : P (s.setPhase c ph) := by
  have hc := hasPulse_of_isLive hl
  have h := K.coil s c ph id (fun _ => ⟨rfl, rfl, rfl, rfl, rfl⟩) (fun h => ?_) (fun _ => .inl hl) hs
  · have hid : ((s.setPhase c ph).modChan c id) = s.setPhase c ph := by
      simp [State.modChan, State.setPhase]
    rwa [hid] at h
  · obtain ⟨h1, h2, h5⟩ := h
    have h3 : ((s.chan c).phase == .faulted) = false := by
      revert hc; cases (s.chan c).phase <;> simp [Phase.hasPulse]
    have h4 : (ph == .faulted) = false := by
      revert hp; cases ph <;> simp [Phase.hasPulse]
    exact ⟨by simp only [id, Channel.updateHeat]; rw [h1, hc, hp],
      by simp only [id, Channel.updateHeat]; rw [h2, h3, h4], fun pu hpu _ => h5 pu hpu hl⟩

theorem foldPulse {s : State} (c : Chan) (hc : (s.chan c).phase.isLive = true) (hs : P s) :
    P (s.foldPulse c) := by
  unfold State.foldPulse
  refine K.examineIf _ ?_
  have h1 := K.modPulse c (fun pu => { pu with foldAt := none }) (fun _ => rfl) (K.setPhaseLive c .fold hc rfl hs)
  split
  · split
    · exact K.tellFold _ h1
    · exact h1
  · exact h1

omit K in
theorem phase_setPhase (s : State) (c : Chan) (ph : Phase) : ((s.setPhase c ph).chan c).phase = ph := by
  have : (s.setPhase c ph).chan c = { (s.chan c).updateHeat s.now with phase := ph } :=
    State.chan_modChan_self s c fun ch => { ch.updateHeat s.now with phase := ph }
  rw [this]

theorem enterHold {s : State} (c : Chan) (hc : (s.chan c).phase.isLive = true) (hs : P s) :
    P (s.enterHold c) := by
  have h1 := K.setPhaseLive c .hold hc rfl hs
  unfold State.enterHold
  simp only
  split
  · exact K.examineIf _ h1
  · refine K.examineIf _ ?_
    have h2 := K.setPhaseLive c .fold (by rw [phase_setPhase]; rfl) rfl h1
    split
    · split
      · exact K.tellFold _ h2
      · exact h2
    · exact h2
  · exact K.examineIf _ (K.modPulse c _ (fun _ => rfl) h1)

theorem leaveKick {s : State} (c : Chan) (hc : (s.chan c).phase.isLive = true) (hs : P s) :
    P (s.leaveKick c) := by
  unfold State.leaveKick
  split
  · exact hs
  · split
    · exact K.endPulse c _ _ (hasPulse_of_isLive hc) hs
    · split
      · exact K.endPulse c _ _ (hasPulse_of_isLive hc) hs
      · split
        · exact K.endPulse c _ _ (hasPulse_of_isLive hc) hs
        · exact K.enterHold c hc hs

omit K in
theorem phase_modPulse (s : State) (c : Chan) (f : Pulse → Pulse) :
    ((s.modPulse c f).chan c).phase = (s.chan c).phase := by simp [State.modPulse]

theorem kickEnd {s : State} (c : Chan) (hc : (s.chan c).phase.isLive = true) (hs : P s) :
    P (s.kickEnd c) := by
  unfold State.kickEnd
  split
  · exact hs
  · split
    · split
      · exact K.leaveKick c (by rwa [phase_modPulse]) (K.modPulse c _ (fun _ => rfl) hs)
      · exact K.endPulse c _ _ (hasPulse_of_isLive hc) hs
    · exact K.leaveKick c hc hs

theorem takeKickEnd {s : State} (c : Chan) (hs : P s) : P (s.takeKickEnd c) := by
  unfold State.takeKickEnd
  split
  · rename_i h
    simp only [kickEndDue, Bool.and_eq_true, beq_iff_eq] at h
    exact K.kickEnd c (by rw [h.1]; rfl) hs
  · exact hs

theorem takeSenseDelay {s : State} (c : Chan) (hs : P s) : P (s.takeSenseDelay c) := by
  unfold State.takeSenseDelay
  split
  · rename_i h
    simp only [senseDelayDue, Bool.and_eq_true, beq_iff_eq] at h
    unfold State.sampleSense
    split
    · exact K.modPulse c _ (fun _ => rfl) hs
    · exact K.endPulse c _ _ (by rw [h.1]; rfl) hs
  · exact hs

theorem takeMaxOn {s : State} (c : Chan) (hs : P s) : P (s.takeMaxOn c) := by
  unfold State.takeMaxOn
  split
  · rename_i h
    simp only [maxOnDue, Bool.and_eq_true] at h
    exact K.endPulse c _ _ (hasPulse_of_isLive h.1) hs
  · exact hs

theorem takeFold {s : State} (c : Chan) (hs : P s) : P (s.takeFold c) := by
  unfold State.takeFold
  split
  · rename_i h
    simp only [foldDue, Bool.and_eq_true, beq_iff_eq] at h
    exact K.foldPulse c (by rw [h.1]; rfl) hs
  · exact hs

theorem takeRecycle {s : State} (c : Chan) (hs : P s) : P (s.takeRecycle c) := by
  unfold State.takeRecycle
  split
  · exact K.recycleEnd c hs
  · exact hs

theorem takeCooling {s : State} (c : Chan) (hs : P s) : P (s.takeCooling c) := by
  unfold State.takeCooling
  split
  · exact K.kickTest true c hs
  · exact hs

theorem takeDueTime {s : State} (p : Port) (tag : Byte) (hs : P s) : P (s.takeDueTime p tag) := by
  unfold State.takeDueTime
  split
  · exact K.doAll true _ hs
  · exact hs

end Sys2Proof.Machine.KeptCore
end

