-- ==== Sys2Proof/Laws/KeptModes.lean ====
section
/-!
SUPPORT. The lamp unit, the mode controller, the switch unit and the port reset keep every property
that survives the writes of `KeptCore` or of `Kept`.
-/

namespace Sys2Proof.Machine

namespace KeptCore

variable {P : State → Prop} (K : KeptCore P)
include K

/-! ## Lamps -/

theorem grantSlot {s : State} (l : LampNo) (hs : P s) : P (s.grantSlot l) := K.modLamp l _ hs

theorem setStaging {s : State} (v : List LampNo) (hs : P s) :
    P { s with lampUnit := { s.lampUnit with staging := v } } := K.lamps s _ id hs

theorem startLamp {s : State} (l : LampNo) (hs : P s) : P (s.startLamp l) := by
  unfold State.startLamp
  simp only
  repeat' split
  · exact K.modLamp l _ hs
  · exact hs
  · exact K.grantSlot l hs
  · exact K.setStaging _ hs

theorem redrive {s : State} (l : LampNo) (hs : P s) : P (s.redrive l) := by
  unfold State.redrive
  simp only
  refine K.modLamp l _ ?_
  repeat' split
  · exact hs
  · exact K.startLamp l hs
  · exact K.setStaging _ hs
  · exact hs

theorem redriveAll {s : State} (which : LampNo → Bool) (hs : P s) : P (s.redriveAll which) := by
  unfold State.redriveAll
  exact foldl (fun _ l h => K.redrive l h) _ _ hs

theorem grantStaged (l : List LampNo) : ∀ s, P s → P (Machine.grantStaged l s) := by
  induction l with
  | nil => exact fun _ hs => hs
  | cons x rest ih =>
    intro s hs
    rw [Machine.grantStaged]
    split
    · exact ih _ (K.grantSlot x (K.setStaging rest hs))
    · exact hs

theorem serveStaging {s : State} (hs : P s) : P s.serveStaging := K.grantStaged _ s hs

theorem takeCoolDown {s : State} (l : LampNo) (hs : P s) : P (s.takeCoolDown l) := by
  unfold State.takeCoolDown
  split
  · exact K.modLamp l _ hs
  · exact hs

theorem takeInrush {s : State} (l : LampNo) (hs : P s) : P (s.takeInrush l) := by
  unfold State.takeInrush
  split
  · exact K.serveStaging (K.modLamp l _ hs)
  · exact hs

/-! ## Ends inside a mode change -/

theorem cutPulse {s : State} (c : Chan) (tell : State → State) (ht : ∀ s, P s → P (tell s))
    (hc : (s.chan c).phase.hasPulse = true) (hs : P s) : P (s.cutPulse c tell) := by
  have h1 := ht _ (K.stopPulse c none hc hs)
  unfold State.cutPulse
  simp only
  split
  · exact K.doAll false _ (K.recycleOver c h1)
  · exact h1

theorem tellAbort {s : State} (c : Chan) (hs : P s) : P (s.tellAbort c) := by
  unfold State.tellAbort
  split
  · exact K.modEntry _ _ _ (fun _ => rfl) hs
  · exact hs
  · exact hs

theorem abortPulse {s : State} (c : Chan) (hc : (s.chan c).phase.hasPulse = true) (hs : P s) :
    P (s.abortPulse c) :=
  K.cutPulse c _ (fun _ h => K.modPulse c _ (fun _ => rfl) (K.tellAbort c h)) hc hs

theorem cutReflexPulse {s : State} (c : Chan) (x : ReflexNo) (cause : Cause)
    (hc : (s.chan c).phase.hasPulse = true) (hs : P s) : P (s.cutReflexPulse c x cause) :=
  K.cutPulse c _ (fun _ h => K.reflexPulseEnd x cause h) hc hs

omit K in
theorem hasPulse_of_runs {ch : Channel} {o : Owner} (h : ch.runs o = true) : ch.phase.hasPulse = true := by
  simp only [Channel.runs, Bool.and_eq_true] at h
  exact hasPulse_of_isLive h.1

theorem abortEntry {s : State} (status : EndStatus) (p : Port) (tag : Byte) (hs : P s) :
    P (s.abortEntry status p tag) := by
  unfold State.abortEntry
  split
  · exact hs
  · simp only
    refine K.conclude _ _ ?_
    split
    · rename_i h
      exact K.abortPulse _ (hasPulse_of_runs h) hs
    · exact K.leaveQueue false _ _ (K.modPulse _ _ (fun _ => by split <;> rfl) hs)

theorem abortPort {s : State} (status : EndStatus) (p : Port) (hs : P s) :
    P (State.abortPort status s p) := by
  unfold State.abortPort
  exact foldl (fun _ (e : Entry) h => K.abortEntry status p e.order.tag h) _ _ hs

theorem markRing {s : State} (m : Mark) (p : Port) (hs : P s) : P (s.markRing m p) := by
  refine K.modQueues p _ ⟨fun h => ?_, rfl, rfl, rfl, rfl, rfl, rfl, id, id⟩ hs
  obtain ⟨a, b⟩ := h
  exact ⟨by simpa [markSlots] using a, b⟩

theorem reflexModeChange {s : State} (mode : Mode) (x : ReflexNo) (hs : P s) :
    P (s.reflexModeChange mode x) := by
  unfold State.reflexModeChange
  simp only
  split
  · exact K.modReflex x _ hs
  · exact K.modReflex x _ hs
  · split
    · exact hs
    · exact K.modReflex x _ hs
  · split
    · exact hs
    · refine K.modReflex x _ ?_
      split
      · exact K.leaveQueue false _ _ hs
      · exact hs
  · split
    · split
      · rename_i h
        exact K.cutReflexPulse _ x _ (hasPulse_of_runs h) hs
      · exact hs
    · exact hs

theorem cutLive {s : State} (hs : P s) : P s.cutLive := by
  unfold State.cutLive
  split
  · refine foldl (fun s c h => ?_) _ _ hs
    split
    · rename_i hl
      exact K.abortPulse c (hasPulse_of_isLive hl) h
    · exact h
  · exact hs

/-! ## The offers at the end of a mode change -/

theorem tellJoined {s : State} (since : Nat) (hs : P s) : P (s.tellJoined since) := by
  unfold State.tellJoined
  exact K.tellRailWaits _ hs

theorem offerAndExamine {s : State} (since : Nat) (hs : P s) : P (s.offerAndExamine since) :=
  K.tellJoined since (K.examine (K.doAll false _ hs))

end KeptCore

namespace KeptPorts

open KeptCore

variable {P : State → Prop} (K : KeptPorts P)
include K

/-! ## The port reset -/

theorem portReset {s : State} (p : Port) (hs : P s) : P (s.portReset p) := by
  unfold State.portReset
  simp only
  refine K.doAll true _ (K.examine (K.modPort p _ (fun h => ?_) (K.tableFilter _
    (foldl (fun _ e h => K.leaveQueue false _ _ h) _ _ (foldl (fun s c h => ?_) _ _ hs)))))
  · obtain ⟨_, _, _, _, _, f⟩ := h
    exact ⟨Nat.zero_le _, Nat.zero_lt_succ _, Nat.zero_le _, Nat.zero_le _, Nat.zero_le _, f⟩
  · unfold State.portResetPulse
    split
    · split
      · rename_i hl
        exact K.abortPulse c (hasPulse_of_isLive hl) h
      · exact K.modPulse c _ (fun _ => rfl) h
    · exact h

end KeptPorts

namespace Kept

open KeptCore

variable {P : State → Prop} (K : Kept P)
include K

/-! ## The rail and the mode -/

theorem railOff {s : State} (mode : Mode) (hs : P s) : P (s.railOff mode) := by
  let late := mode == .alarm && s.railOn
  exact K.control { s with channels := mapTable s.channels fun ch => { ch with shortAt := none } }
    { s.control with
      rail := .off
      railLossAt := none
      lateShorts := if late then s.dueShorts else []
      lateRailLoss := late && s.expired s.control.railLossAt }
    (fun h => h) (K.shorts s hs)

theorem railFor {s : State} (left entered : Mode) (hs : P s) : P (s.railFor left entered) := by
  unfold State.railFor
  split
  · exact K.railOff _ hs
  · exact K.railOff _ hs
  · split
    · exact K.control s _ (fun h => h) hs
    · exact hs

theorem changeMode {s : State} (mode : Mode) (hs : P s) : P (s.changeMode mode) := by
  unfold State.changeMode
  simp only
  refine K.setModeEdges ?_
  have h1 := K.railFor s.control.mode mode (K.control s { s.control with mode := mode } (fun h => h) hs)
  have h2 := foldl (fun _ p h => K.markRing (abortMark mode) p h) (abortedPorts mode) _ h1
  have h3 := foldl (fun _ p h => K.abortPort (abortMark mode).status p h) (abortedPorts mode) _ h2
  have h4 := K.doAll false ((abortedPorts mode).map Work.takes) h3
  have h5 := foldl (fun _ x h => K.reflexModeChange mode x h) (allFin 16) _ h4
  have h6 := K.offerAndExamine s.arbiter.joins (K.cutLive h5)
  split
  · exact K.redriveAll _ h6
  · exact h6

theorem laterCause {s : State} (cause : AlarmCause) (hs : P s) : P (s.laterCause cause) := by
  refine K.control s _ (fun h r hr => ?_) hs
  cases ha : s.control.alarm with
  | none => simp [ha] at hr
  | some a =>
    simp only [ha, Option.map_some, Option.some.injEq] at hr
    subst hr
    unfold AlarmRecord.addLater
    split
    · exact h a ha
    · exact Nat.min_le_left _ _

theorem raiseAlarm {s : State} (cause : AlarmCause) (hs : P s) : P (s.raiseAlarm cause) := by
  unfold State.raiseAlarm
  split
  · exact K.laterCause cause hs
  · refine K.changeMode .alarm (K.control s _ (fun _ r hr => ?_) hs)
    simp only [Option.some.injEq] at hr
    subst hr
    exact Nat.zero_le _

theorem noShort {s : State} (c : Chan) (hs : P s) : P (s.modChan c fun ch => { ch with shortAt := none }) :=
  K.noteOn c _ (fun _ => ⟨rfl, rfl, rfl, rfl, rfl⟩) (fun _ => ⟨rfl, rfl⟩) hs

theorem takeShortCheck {s : State} (c : Chan) (hs : P s) : P (s.takeShortCheck c) := by
  unfold State.takeShortCheck
  split
  · exact K.raiseAlarm _ (K.noShort c hs)
  · split
    · exact K.laterCause _ (K.control s _ (fun h => h) hs)
    · exact hs

theorem takeRailLoss {s : State} (hs : P s) : P s.takeRailLoss := by
  unfold State.takeRailLoss
  split
  · exact K.raiseAlarm _ (K.control s _ (fun h => h) hs)
  · split
    · exact K.laterCause _ (K.control s _ (fun h => h) hs)
    · exact hs

theorem railBecomesOn {s : State} (hs : P s) : P s.railBecomesOn :=
  K.examine (foldl (fun _ c h => K.startShort c h) _ _ (K.control s _ (fun h => h) hs))

theorem takeSettle {s : State} (hs : P s) : P s.takeSettle := by
  unfold State.takeSettle
  split
  · split
    · exact K.railBecomesOn hs
    · exact K.raiseAlarm _ hs
  · exact hs

/-! ## Switches and reflexes -/

theorem arriveRequest {s : State} (x : ReflexNo) (hs : P s) : P (s.arriveRequest x) := by
  unfold State.arriveRequest
  split
  · exact hs
  · split
    · exact K.dropRequest x _ hs
    · exact K.dropRequest x _ hs
    · exact K.doAll true _ (K.enqueue true _ _ (K.setArrivals _ _ hs))

theorem trigger {s : State} (x : ReflexNo) (hs : P s) : P (s.trigger x) :=
  K.arriveRequest x (K.modReflex x _ hs)

theorem withdraw {s : State} (x : ReflexNo) (hs : P s) : P (s.withdraw x) := by
  have h1 := K.modReflex x (fun r => { r with state := .armed }) hs
  unfold State.withdraw
  simp only
  split
  · exact h1
  · exact K.doAll true _ (K.leaveQueue true _ _ h1)

theorem reflexAct {s : State} (x : ReflexNo) (close : Bool) (hs : P s) : P (s.reflexAct x close).2 := by
  unfold State.reflexAct
  split
  · unfold State.openEdge
    split
    · exact K.withdraw x hs
    · exact K.modReflex x (fun r => { r with state := .armed }) hs
    · split
      · exact hs
      · split
        · rename_i h
          exact K.endPulse _ _ _ (hasPulse_of_runs h) hs
        · exact hs
    · exact hs
    · exact hs
  · unfold State.triggerEdge
    simp only
    split
    · split
      · exact K.trigger x hs
      · exact K.trigger x hs
      · split
        · exact K.changeMode .tilt hs
        · exact hs
    · exact hs

theorem reflexEdge (n : SwitchNo) (close : Bool) (l : List ReflexNo) :
    ∀ named s, P s → P (Machine.reflexEdge n close l named s).2 := by
  induction l with
  | nil => exact fun _ _ hs => hs
  | cons x xs ih =>
    intro named s hs
    rw [Machine.reflexEdge]
    split
    · exact ih _ _ (K.reflexAct x close hs)
    · exact ih _ _ hs

theorem offerEvent {s : State} (ev : SwitchEvent) (p : Port) (hs : P s) : P (s.offerEvent ev p) := by
  unfold State.offerEvent
  split
  · refine K.modPort p _ (fun h => ?_) hs
    obtain ⟨a, b, c, d, e, f⟩ := h
    unfold Subscription.offerEvent Config.eventSize
    by_cases hlt : (s.port p).switches.events.length < 32
    · rw [if_pos hlt]
      refine ⟨a, b, c, ?_, Nat.zero_le _, f⟩
      simp only [List.length_append, List.length_singleton]
      omega
    · rw [if_neg hlt]
      exact ⟨a, b, c, d, Nat.min_le_left _ _, f⟩
  · exact hs

theorem edge {s : State} (n : SwitchNo) (close : Bool) (hs : P s) : P (s.edge n close) := by
  have h1 := K.reflexEdge n close (allFin 16) none s hs
  unfold State.edge
  exact foldl (fun _ p h => K.offerEvent _ p h) _ _ h1

theorem debounced {s : State} (n : SwitchNo) (hs : P s) : P (s.debounced n) :=
  K.edge n _ (K.modSwitch n _ hs)

theorem takeDebounce {s : State} (n : SwitchNo) (hs : P s) : P (s.takeDebounce n) := by
  unfold State.takeDebounce
  split
  · exact K.debounced n hs
  · exact hs

end Kept

end Sys2Proof.Machine
end

