-- ==== Sys2Proof/Laws/KeptExec.lean ====
section
/-!
SUPPORT. The commands, the links, the clock and every row of the table keep every property that survives
the writes of `KeptByAll`.
-/

namespace Sys2Proof.Machine

namespace KeptPorts

open KeptCore

variable {P : State → Prop} (K : KeptPorts P)
include K

/-! ## The commands and links that write a port's own record -/

/-- A write of a port's record that touches no queue and no setting with a range. -/
theorem modPortFree {s : State} (p : Port) (f : PortState → PortState)
    (h : ∀ ps, (f ps).ring = ps.ring ∧ (f ps).completions = ps.completions
      ∧ (f ps).switches.events = ps.switches.events ∧ (f ps).switches.lost = ps.switches.lost
      ∧ (f ps).attention.priorities = ps.attention.priorities
      ∧ (f ps).attention.threshold = ps.attention.threshold
      ∧ (f ps).attention.lowMark = ps.attention.lowMark) (hs : P s) : P (s.modPort p f) := by
  refine K.modPort p f (fun hr => ?_) hs
  obtain ⟨h1, h2, h3, h4, h5, h6, h7⟩ := h (s.port p)
  unfold PortState.inRange at hr ⊢
  rwa [h1, h2, h3, h4, h5, h6, h7]

theorem moveHeld (p : Port) (n : Nat) : ∀ s, P s → P (Machine.moveHeld p n s) := by
  induction n with
  | zero => exact fun _ hs => hs
  | succ n ih =>
    intro s hs
    rw [Machine.moveHeld]
    split
    · exact hs
    · split
      · rename_i h
        refine ih _ (K.doAll true _ (K.freeEntry _ _ (K.modPort p _ (fun hr => ?_) hs)))
        obtain ⟨a, b, c, d⟩ := hr
        refine ⟨a, b, ?_, d⟩
        simp only [Config.completionSize] at h
        simp only [List.length_append, List.length_singleton]
        omega
      · exact hs

theorem acceptOrder {s : State} (p : Port) (o : Order) (h : (s.port p).ring.slots.length < 32)
    (hs : P s) : P (s.acceptOrder p o) := by
  refine K.doAll true _ (K.modPort p _ (fun hr => ?_) hs)
  obtain ⟨a, b⟩ := hr
  refine ⟨?_, b⟩
  simp only [List.length_append, List.length_singleton]
  omega

theorem answerPostOrder {s : State} (p : Port) (r : OrderRecord) (hs : P s) :
    P (Machine.answerPostOrder p r s).state := by
  unfold Machine.answerPostOrder
  split
  · split
    · exact hs
    · rename_i h
      refine K.acceptOrder p _ ?_ hs
      unfold State.orderRefusal at h
      by_contra hlt
      have hge : Config.ringSize ≤ (s.port p).ring.slots.length := by
        simp only [Config.ringSize]; omega
      dsimp only at h
      repeat' split at h
      all_goals cases h
  · exact hs

theorem cancelRunning {s : State} (e : Entry) (hs : P s) : P (s.cancelRunning e).state := by
  unfold State.cancelRunning
  simp only
  split
  · exact hs
  · split
    · exact K.modPulse _ _ (fun _ => rfl) hs
    · rename_i h
      exact K.endPulse _ _ _ (by rw [h]; rfl) hs
    · rename_i h
      exact K.endPulse _ _ _ (by rw [h]; rfl) hs
    · exact hs
  · exact K.modEntry _ _ _ (fun _ => rfl) hs

theorem answerCancelOrder {s : State} (p : Port) (tag : Byte) (hs : P s) :
    P (Machine.answerCancelOrder p tag s).state := by
  unfold Machine.answerCancelOrder
  split
  · dsimp only
    refine K.modPort p _ (fun hr => ?_) hs
    obtain ⟨a, b⟩ := hr
    exact ⟨by simpa using a, b⟩
  · split
    · exact hs
    · split
      · exact K.cancelRunning _ hs
      · exact K.doAll true _ hs
      · exact K.doAll true _ hs
      · exact K.doAll true _ hs
      · exact hs

theorem answerReadCompletions {s : State} (p : Port) (hs : P s) :
    P (Machine.answerReadCompletions p s).state := by
  refine K.moveHeld p _ _ (K.modPort p _ (fun hr => ?_) hs)
  obtain ⟨a, b, c, d⟩ := hr
  refine ⟨a, b, ?_, d⟩
  simp only [List.length_drop]
  omega

theorem answerReadChannel {s : State} (p : Port) (channel : Byte) (hs : P s) :
    P (Machine.answerReadChannel p channel s).state := by
  unfold Machine.answerReadChannel
  split
  · exact hs
  · exact K.heat s _ hs

theorem answerReadSwitchEvents {s : State} (p : Port) (hs : P s) :
    P (Machine.answerReadSwitchEvents p s).state := by
  unfold Machine.answerReadSwitchEvents
  dsimp only
  refine K.modPort p _ (fun hr => ?_) hs
  obtain ⟨a, b, c, d, e⟩ := hr
  refine ⟨a, b, c, ?_, e⟩
  simp only [List.length_drop]
  omega

theorem applyCells (p : Port) (l : List (LampNo × Option Light)) :
    ∀ s, P s → P (Machine.applyCells p l s) := by
  induction l with
  | nil => exact fun _ hs => hs
  | cons w l ih => exact fun s hs => ih _ (K.modLamp _ _ hs)

theorem answerWriteLamps {s : State} (p : Port) (w : List CellWrite) (hs : P s) :
    P (Machine.answerWriteLamps p w s).state := by
  unfold Machine.answerWriteLamps
  repeat' split
  all_goals first
    | exact hs
    | exact K.redriveAll _ (K.applyCells p _ s hs)

theorem answerWriteAttention {s : State} (p : Port) (v : Vector Byte 7) (t m : Byte) (hs : P s) :
    P (Machine.answerWriteAttention p v t m s).state := by
  unfold Machine.answerWriteAttention
  dsimp only
  refine K.modPort p _ (fun hr => ?_) hs
  obtain ⟨a, b, c, d, e, _⟩ := hr
  refine ⟨a, b, c, d, e, fun n hn => ?_, Nat.min_le_left _ _, Nat.min_le_left _ _⟩
  simp only [mapTable, Vector.toList_mk, List.mem_map] at hn
  obtain ⟨x, _, rfl⟩ := hn
  exact Nat.min_le_left _ _

theorem answerTakeEvent {s : State} (p : Port) (hs : P s) :
    P (Machine.answerTakeEvent p s).state := by
  unfold Machine.answerTakeEvent
  dsimp only
  refine K.modPortFree p _ (fun ps => ?_) hs
  unfold PortState.clearEdge
  split <;> exact ⟨rfl, rfl, rfl, rfl, rfl, rfl, rfl⟩

theorem modLink {s : State} (p : Port) (f : Link → Link) (hs : P s) : P (s.modLink p f) :=
  K.modPortFree p _ (fun _ => ⟨rfl, rfl, rfl, rfl, rfl, rfl, rfl⟩) hs

theorem sendReply (p : Port) (a : Answer) (hs : P a.state) : P (Machine.sendReply p a) :=
  K.modPortFree p _ (fun _ => ⟨rfl, rfl, rfl, rfl, rfl, rfl, rfl⟩) hs

theorem takeComparator {s : State} (p : Port) (hs : P s) : P (s.takeComparator p) := by
  unfold State.takeComparator
  split
  · exact K.modPortFree p _ (fun _ => ⟨rfl, rfl, rfl, rfl, rfl, rfl, rfl⟩) hs
  · exact hs

theorem takeLapse {s : State} (p : Port) (hs : P s) : P (s.takeLapse p) := by
  unfold State.takeLapse
  split
  · exact K.modPortFree p _ (fun _ => ⟨rfl, rfl, rfl, rfl, rfl, rfl, rfl⟩) hs
  · exact hs

end KeptPorts

namespace Kept

open KeptCore

variable {P : State → Prop} (K : Kept P)
include K

/-! ## The commands -/

theorem disable {s : State} (c : Chan) (hc : (s.chan c).phase = .idle) (hs : P s) : P (s.disable c) := by
  have h1 := K.coil s c .offline (fun ch => { ch with front := .channelWait })
    (fun _ => ⟨rfl, rfl, rfl, rfl, rfl⟩)
    (fun h => by
      obtain ⟨a, b, _⟩ := h
      rw [hc] at a b
      exact ⟨a, b, fun _ _ hl => by cases hl⟩) (fun h => by cases h) hs
  exact K.doAll true _ (K.withdrawRequests c _ (K.depart true c h1))

theorem reoffer {s : State} (c : Chan) (hs : P s) : P (s.reoffer c) :=
  K.doAll true _ (K.depart true c (K.setFront c _ hs))

/-- A change between states without a pulse and without a fault. -/
theorem setPhaseRest {s : State} (c : Chan) (hc : (s.chan c).phase = .offline) (hs : P s) :
    P (s.setPhase c .idle) := by
  have h := K.coil s c .idle id (fun _ => ⟨rfl, rfl, rfl, rfl, rfl⟩) (fun h => ?_) (fun h => by cases h) hs
  · have hid : ((s.setPhase c .idle).modChan c id) = s.setPhase c .idle := by
      simp [State.modChan, State.setPhase]
    rwa [hid] at h
  · obtain ⟨a, b, _⟩ := h
    rw [hc] at a b
    exact ⟨a, b, fun _ _ hl => by cases hl⟩

omit K in
theorem phase_updateHeat (s : State) (c : Chan) : ((s.updateHeat c).chan c).phase = (s.chan c).phase := by
  simp [State.updateHeat, Channel.updateHeat]

theorem writeProfile {s : State} (c : Chan) (r : ProfileRecord)
    (hb : (s.chan c).phase.busy = false) (hs : P s) : P (s.writeProfile c (clampProfile r)) := by
  have hp : ((s.updateHeat c).chan c).phase.hasPulse = false := by
    rw [phase_updateHeat]
    revert hb; cases (s.chan c).phase <;> simp [Phase.busy, Phase.hasPulse]
  have h1 := K.profile _ c r hp (K.heat s c hs)
  unfold State.writeProfile
  simp only
  split
  · rename_i h
    split
    · exact K.setPhaseRest c (by simpa [State.updateHeat, Channel.updateHeat] using h) h1
    · exact h1
  · rename_i h
    split
    · exact K.reoffer c h1
    · exact K.disable c (by simpa [State.updateHeat, Channel.updateHeat] using h) h1
  · exact h1

theorem answerWriteProfile {s : State} (p : Port) (channel : Byte) (r : ProfileRecord) (hs : P s) :
    P (Machine.answerWriteProfile p channel r s).state := by
  unfold Machine.answerWriteProfile
  simp only
  repeat' split
  all_goals first
    | exact hs
    | exact K.writeProfile _ r (by simp_all) hs

theorem answerClearFault {s : State} (p : Port) (channel : Byte) (hs : P s) :
    P (Machine.answerClearFault p channel s).state := by
  unfold Machine.answerClearFault
  split
  · exact hs
  · split
    · exact hs
    · rename_i c _
      by_cases h : ((s.chan c).phase == .faulted) = true
      · rw [if_pos h]
        dsimp only
        refine K.coil s c _ _ (fun _ => ⟨rfl, rfl, rfl, rfl, rfl⟩) (fun hc => ?_)
          (fun h => by revert h; split <;> exact fun h => by cases h) hs
        obtain ⟨a, _⟩ := hc
        rw [beq_iff_eq] at h
        rw [h] at a
        by_cases he : (s.chan c).profile.enabled = true
        · rw [if_pos he]; exact ⟨a, rfl, fun _ _ hl => by cases hl⟩
        · rw [if_neg he]; exact ⟨a, rfl, fun _ _ hl => by cases hl⟩
      · rw [if_neg h]; exact hs

theorem answerWriteRail {s : State} (p : Port) (b v : Byte) (hs : P s) :
    P (Machine.answerWriteRail p b v s).state := by
  unfold Machine.answerWriteRail
  simp only
  repeat' split
  · exact hs
  · exact hs
  · refine K.examine (K.rail s _ _ (Nat.min_le_right _ _) ?_ hs)
    have := b.isLt
    omega

theorem answerSetMode {s : State} (p : Port) (mode : Byte) (hs : P s) :
    P (Machine.answerSetMode p mode s).state := by
  unfold Machine.answerSetMode
  split
  · exact hs
  · split
    · exact hs
    · split
      · exact hs
      · exact K.changeMode _ hs

theorem answerClearAlarm {s : State} (p : Port) (hs : P s) :
    P (Machine.answerClearAlarm p s).state := by
  unfold Machine.answerClearAlarm
  repeat' split
  all_goals first
    | exact hs
    | exact K.changeMode _ hs

theorem answerWriteSwitchConfig {s : State} (p : Port) (n : Byte) (h : Bool) (a b : Byte) (hs : P s) :
    P (Machine.answerWriteSwitchConfig p n h a b s).state := by
  unfold Machine.answerWriteSwitchConfig
  repeat' split
  all_goals first
    | exact hs
    | (unfold State.writeSwitch; dsimp only; exact K.modSwitch _ _ hs)

theorem answerWriteReflex {s : State} (p : Port) (x : Byte) (r : ReflexRecord) (hs : P s) :
    P (Machine.answerWriteReflex p x r s).state := by
  unfold Machine.answerWriteReflex
  repeat' split
  all_goals first
    | exact hs
    | (unfold State.writeReflex; dsimp only; exact K.modReflex _ _ hs)

theorem answerWriteLampConfig {s : State} (p : Port) (f : BitVec 40) (t : BitVec 16) (l : Byte)
    (hs : P s) : P (Machine.answerWriteLampConfig p f t l s).state := by
  unfold Machine.answerWriteLampConfig
  simp only
  split
  · exact hs
  · refine K.serveStaging ?_
    unfold State.writeInrushFlags
    exact K.lamps s _ (fun _ => ⟨⟨le_min (by omega) (Nat.le_max_left _ _), Nat.min_le_left _ _⟩,
      ⟨le_min (by omega) (Nat.le_max_left _ _), Nat.min_le_left _ _⟩⟩) hs

theorem answer {s : State} (c : Command) (p : Port) (hs : P s) : P (c.answer p s).state := by
  cases c with
  | portReset =>
    show P (answerPortReset p s).state
    unfold answerPortReset
    dsimp only
    exact K.modPortFree p _ (fun _ => ⟨rfl, rfl, rfl, rfl, rfl, rfl, rfl⟩) hs
  | tableReset =>
    show P (answerTableReset p s).state
    unfold answerTableReset
    split
    · exact hs
    · dsimp only
      exact K.modPortFree p _ (fun _ => ⟨rfl, rfl, rfl, rfl, rfl, rfl, rfl⟩) hs
  | readClock => exact hs
  | setAlarmTime time =>
    show P (answerSetAlarmTime p time s).state
    unfold answerSetAlarmTime
    dsimp only
    exact K.modPortFree p _ (fun _ => ⟨rfl, rfl, rfl, rfl, rfl, rfl, rfl⟩) hs
  | disarm =>
    show P (answerDisarm p s).state
    unfold answerDisarm
    dsimp only
    exact K.modPortFree p _ (fun _ => ⟨rfl, rfl, rfl, rfl, rfl, rfl, rfl⟩) hs
  | postOrder o => exact K.answerPostOrder p o hs
  | cancelOrder tag => exact K.answerCancelOrder p tag hs
  | readCompletions => exact K.answerReadCompletions p hs
  | readRing => exact hs
  | writeProfile c r => exact K.answerWriteProfile p c r hs
  | readProfile c =>
    show P (Machine.answerReadProfile p c s).state
    unfold Machine.answerReadProfile
    split <;> exact hs
  | readChannel c => exact K.answerReadChannel p c hs
  | clearFault c => exact K.answerClearFault p c hs
  | writeRail b v => exact K.answerWriteRail p b v hs
  | readRail => exact hs
  | setMode m => exact K.answerSetMode p m hs
  | clearAlarm => exact K.answerClearAlarm p hs
  | readAlarm => exact hs
  | writeSwitchConfig n h a b => exact K.answerWriteSwitchConfig p n h a b hs
  | readSwitches => exact hs
  | subscribe v =>
    show P (answerSubscribe p v s).state
    unfold answerSubscribe
    dsimp only
    exact K.modPortFree p _ (fun _ => ⟨rfl, rfl, rfl, rfl, rfl, rfl, rfl⟩) hs
  | readSwitchEvents => exact K.answerReadSwitchEvents p hs
  | writeReflex x r => exact K.answerWriteReflex p x r hs
  | readReflex x =>
    show P (Machine.answerReadReflex p x s).state
    unfold Machine.answerReadReflex
    split <;> exact hs
  | writeLamps w => exact K.answerWriteLamps p w hs
  | writeLampConfig f t l => exact K.answerWriteLampConfig p f t l hs
  | readLamps l =>
    show P (Machine.answerReadLamps p l s).state
    unfold Machine.answerReadLamps
    split <;> exact hs
  | writeAttention v t m => exact K.answerWriteAttention p v t m hs
  | takeEvent => exact K.answerTakeEvent p hs

/-! ## The links -/

theorem takeFrame {s : State} (p : Port) (f : Frame) (hs : P s) : P (s.takeFrame p f) := by
  refine K.sendReply p _ ?_
  unfold frameAnswer
  split
  · exact hs
  · exact K.answer _ p hs

theorem frameComplete {s : State} (p : Port) (f : Frame) (hs : P s) : P (s.frameComplete p f) := by
  unfold State.frameComplete
  split
  · exact K.takeFrame p f hs
  · exact K.modLink p _ hs
  · exact K.modLink p _ hs

theorem takeByte {s : State} (p : Port) (b : Byte) (hs : P s) : P (s.takeByte p b) := by
  unfold State.takeByte
  split
  · split
    · exact K.modLink p _ hs
    · exact K.modLink p _ hs
  · simp only
    split
    · exact K.frameComplete p _ (K.modLink p _ hs)
    · exact K.modLink p _ hs
  · exact K.modLink p _ hs

theorem takeGap {s : State} (p : Port) (hs : P s) : P (s.takeGap p) := by
  unfold State.takeGap
  split
  · split
    · exact K.modLink p _ hs
    · exact K.modLink p _ (K.modLink p _ hs)
    · exact K.frameComplete p _ (K.modLink p _ hs)
  · exact hs

theorem afterReply {s : State} (p : Port) (hs : P s) : P (s.afterReply p) := by
  have h1 := K.modLink p (fun l => { l with sending := none }) hs
  unfold State.afterReply
  simp only
  split
  · exact K.portReset p h1
  · exact K.reset _ h1
  · split
    · exact K.takeFrame p _ (K.modLink p _ h1)
    · exact h1

theorem takeReplyEnd {s : State} (p : Port) (hs : P s) : P (s.takeReplyEnd p) := by
  unfold State.takeReplyEnd
  split
  · exact K.afterReply p hs
  · exact hs

theorem finishReplies {s : State} (p : Port) (hs : P s) : P (s.finishReplies p) :=
  K.takeReplyEnd p (K.takeReplyEnd p hs)

/-! ## The clock -/

theorem choose {s : State} (hs : P s) : P s.choose := K.free s _ hs

theorem lateShort {s : State} (c : Chan) (hs : P s) : P (s.lateShort c) := by
  unfold State.lateShort
  split
  · exact K.takeShortCheck c (K.choose hs)
  · exact K.control _ _ (fun h => h) (K.choose hs)

theorem lateRailLoss {s : State} (hs : P s) : P s.lateRailLoss := by
  unfold State.lateRailLoss
  split
  · exact K.takeRailLoss (K.choose hs)
  · exact K.control _ _ (fun h => h) (K.choose hs)

theorem takeDue (e : Due) {s : State} (hs : P s) : P (e.take s) := by
  cases e with
  | gap p => exact K.takeGap p hs
  | debounce n => exact K.takeDebounce n hs
  | comparator p => exact K.takeComparator p hs
  | lapse p => exact K.takeLapse p hs
  | dueTime p tag => exact K.takeDueTime p tag hs
  | kickEnd c => exact K.takeKickEnd c hs
  | senseDelay c => exact K.takeSenseDelay c hs
  | maxOn c => exact K.takeMaxOn c hs
  | fold c => exact K.takeFold c hs
  | recycle c => exact K.takeRecycle c hs
  | cooling c => exact K.takeCooling c hs
  | shortCheck c => exact K.takeShortCheck c hs
  | settle => exact K.takeSettle hs
  | railLoss => exact K.takeRailLoss hs
  | lampPhase r => exact K.redriveAll _ hs
  | coolDown l => exact K.takeCoolDown l hs
  | inrush l => exact K.takeInrush l hs
  | lateShort c => exact K.lateShort c hs
  | lateRailLoss => exact K.lateRailLoss hs

theorem takeOneDue {s : State} (hs : P s) : P s.takeOneDue := by
  unfold State.takeOneDue
  split
  · exact hs
  · exact K.takeDue _ hs
  · exact K.takeDue _ (K.choose hs)

theorem takeDues (n : Nat) : ∀ s, P s → P (Machine.takeDues n s) := by
  induction n with
  | zero => exact fun _ hs => hs
  | succ n ih => exact fun s hs => ih _ (K.takeOneDue hs)

theorem settleValue {s : State} (hs : P s) : P s.settleValue := K.takeDues _ s hs

theorem dropLate {s : State} (hs : P s) : P s.dropLate := K.control s _ (fun h => h) hs

/-! ## Rows that are events without a pin, the supply or the tick -/

theorem event {act : State → State} {s t : State} (ha : ∀ s, P s → P (act s)) (hs : P s)
    (h : Machine.event act s = .next t) : P t := by
  unfold Machine.event at h
  split at h
  · cases h; exact K.decideLines (ha s hs)
  · cases h; exact hs

theorem commandRow {s t : State} (c : Command) (p : Port) (hs : P s)
    (h : Machine.event (Machine.commandRow p (c.answer p)) s = .next t) : P t :=
  K.event (fun _ hs => K.sendReply p _ (K.answer c p (K.finishReplies p hs))) hs h

end Kept

namespace KeptByAll

variable {P : State → Prop} (K : KeptByAll P)
include K

theorem rawChange {s : State} (n : SwitchNo) (high : Bool) (hs : P s) : P (s.rawChange n high) := by
  have h1 := K.pins s { s.pins with switch := s.pins.switch.set n high } hs
  unfold State.rawChange
  simp only
  split
  · exact K.modSwitch n _ h1
  · split
    · exact h1
    · split
      · exact K.debounced n h1
      · exact K.modSwitch n _ h1

theorem takeSense {s : State} (c : Chan) (high : Bool) (hs : P s) : P (s.takeSense c high) := by
  have h1 := K.pins s { s.pins with sense := s.pins.sense.set c high } hs
  unfold State.takeSense
  simp only
  split
  · exact K.startShort c h1
  · exact K.control _ _ (fun h => h) (K.noShort c h1)

theorem takeRailok {s : State} (high : Bool) (hs : P s) : P (s.takeRailok high) := by
  have h1 : P { s with pins := { s.pins with railok := high } } := K.pins s _ hs
  have h2 := fun v hv => K.control { s with pins := { s.pins with railok := high } } v hv h1
  unfold State.takeRailok
  dsimp only
  by_cases hh : high = true
  · rw [if_pos hh]; exact h2 _ (fun h => h)
  · rw [if_neg hh]
    split
    · exact h2 _ (fun h => h)
    · exact h1

theorem ticked {s : State} (hs : P s) : P s.tick := K.tick s.dropLate (K.dropLate hs)

theorem advance {s : State} (hs : P s) : P s.advance := K.ticked (K.settleValue hs)

/-- Every command keeps the property. -/
theorem exec {i : Instr} {s t : State} (hs : P s) (h : Machine.exec i s = .next t) : P t := by
  cases i with
  | powerOn => cases h; exact K.powerOn s hs
  | supplyFall => cases h; exact K.powerOff s hs
  | resetnFall =>
    have h1 : P (s.setResetn false) := K.pins s _ hs
    simp only [Machine.exec, execResetnFall] at h
    split at h
    · split at h
      · cases h; exact K.decideLines (K.reset _ h1)
      · cases h; exact h1
    · cases h; exact hs
  | resetnRise => cases h; exact K.pins s _ hs
  | tableClockAdvance => exact K.event (fun _ hs => K.advance hs) hs h
  | receiveByte p b => exact K.event (fun _ hs => K.takeByte p b hs) hs h
  | gapExpiry p => exact K.event (fun _ hs => K.takeGap p hs) hs h
  | replyEnd p => exact K.event (fun _ hs => K.takeReplyEnd p hs) hs h
  | switchRawChange n high =>
    simp only [Machine.exec, execSwitchRawChange] at h
    split at h
    · cases h; exact hs
    · split at h
      · cases h; exact K.decideLines (K.rawChange n high hs)
      · cases h; exact K.pins s _ hs
  | debounceExpiry n => exact K.event (fun _ hs => K.takeDebounce n hs) hs h
  | senseChange c high =>
    simp only [Machine.exec, execSenseChange] at h
    split at h
    · cases h; exact hs
    · split at h
      · cases h; exact K.decideLines (K.takeSense c high hs)
      · cases h; exact K.pins s _ hs
  | railokChange high =>
    simp only [Machine.exec, execRailokChange] at h
    split at h
    · cases h; exact hs
    · split at h
      · cases h; exact K.decideLines (K.takeRailok high hs)
      · cases h; exact K.pins s _ hs
  | comparatorMatch p => exact K.event (fun _ hs => K.takeComparator p hs) hs h
  | comparatorLapse p => exact K.event (fun _ hs => K.takeLapse p hs) hs h
  | dueTimeExpiry p tag => exact K.event (fun _ hs => K.takeDueTime p tag hs) hs h
  | kickEndExpiry c => exact K.event (fun _ hs => K.takeKickEnd c hs) hs h
  | senseDelayExpiry c => exact K.event (fun _ hs => K.takeSenseDelay c hs) hs h
  | maxOnExpiry c => exact K.event (fun _ hs => K.takeMaxOn c hs) hs h
  | foldExpiry c => exact K.event (fun _ hs => K.takeFold c hs) hs h
  | recycleExpiry c => exact K.event (fun _ hs => K.takeRecycle c hs) hs h
  | coolingExpiry c => exact K.event (fun _ hs => K.takeCooling c hs) hs h
  | shortCheckExpiry c => exact K.event (fun _ hs => K.takeShortCheck c hs) hs h
  | settleExpiry => exact K.event (fun _ hs => K.takeSettle hs) hs h
  | railLossExpiry => exact K.event (fun _ hs => K.takeRailLoss hs) hs h
  | lampPhaseEvent r => exact K.event (fun _ hs => K.redriveAll _ hs) hs h
  | coolDownExpiry l => exact K.event (fun _ hs => K.takeCoolDown l hs) hs h
  | inrushExpiry l => exact K.event (fun _ hs => K.takeInrush l hs) hs h
  | portReset p => exact K.commandRow .portReset p hs h
  | tableReset p => exact K.commandRow .tableReset p hs h
  | readClock p => exact K.commandRow .readClock p hs h
  | setAlarmTime p time => exact K.commandRow (.setAlarmTime time) p hs h
  | disarm p => exact K.commandRow .disarm p hs h
  | postOrder p o => exact K.commandRow (.postOrder o) p hs h
  | cancelOrder p tag => exact K.commandRow (.cancelOrder tag) p hs h
  | readCompletions p => exact K.commandRow .readCompletions p hs h
  | readRing p => exact K.commandRow .readRing p hs h
  | writeProfile p c r => exact K.commandRow (.writeProfile c r) p hs h
  | readProfile p c => exact K.commandRow (.readProfile c) p hs h
  | readChannel p c => exact K.commandRow (.readChannel c) p hs h
  | clearFault p c => exact K.commandRow (.clearFault c) p hs h
  | writeRail p b v => exact K.commandRow (.writeRail b v) p hs h
  | readRail p => exact K.commandRow .readRail p hs h
  | setMode p m => exact K.commandRow (.setMode m) p hs h
  | clearAlarm p => exact K.commandRow .clearAlarm p hs h
  | readAlarm p => exact K.commandRow .readAlarm p hs h
  | writeSwitchConfig p n c a b => exact K.commandRow (.writeSwitchConfig n c a b) p hs h
  | readSwitches p => exact K.commandRow .readSwitches p hs h
  | subscribe p v => exact K.commandRow (.subscribe v) p hs h
  | readSwitchEvents p => exact K.commandRow .readSwitchEvents p hs h
  | writeReflex p x r => exact K.commandRow (.writeReflex x r) p hs h
  | readReflex p x => exact K.commandRow (.readReflex x) p hs h
  | writeLamps p w => exact K.commandRow (.writeLamps w) p hs h
  | writeLampConfig p f t l => exact K.commandRow (.writeLampConfig f t l) p hs h
  | readLamps p l => exact K.commandRow (.readLamps l) p hs h
  | writeAttention p v t m => exact K.commandRow (.writeAttention v t m) p hs h
  | takeEvent p => exact K.commandRow .takeEvent p hs h

end KeptByAll

end Sys2Proof.Machine
end

