-- ==== Sys2Proof/Laws/Orders.lean ====
section
/-!
SUPPORT. The work of an event comes to its end: every part lowers `workBound`, so `State.doAll` leaves
no part over, and it obeys the two equations `doAll_nil` and `doAll_cons`, which say all it does.
-/

namespace Sys2Proof.Machine

/-! ## What the bound counts -/

/-- What names an entry and says whether it is live. -/
def Entry.key (e : Entry) : Port × Byte × Bool := (e.port, e.order.tag, e.live)

/-- A state that holds no more ring orders and queue members than another, and the same live entries. -/
structure State.NoMore (t s : State) : Prop where
  ring : t.ringOrders ≤ s.ringOrders
  keys : t.table.map Entry.key = s.table.map Entry.key
  queue : t.queued ≤ s.queued

theorem State.NoMore.refl (s : State) : s.NoMore s := ⟨le_refl _, rfl, le_refl _⟩

theorem State.NoMore.trans {a b c : State} (h : a.NoMore b) (h' : b.NoMore c) : a.NoMore c :=
  ⟨le_trans h.ring h'.ring, h.keys.trans h'.keys, le_trans h.queue h'.queue⟩

theorem State.NoMore.live {a b : State} (h : a.NoMore b) : a.liveCount ≤ b.liveCount := by
  have : ∀ l : List Entry, (l.filter Entry.live).length
      = ((l.map Entry.key).filter fun x => x.2.2).length := by
    intro l
    induction l with
    | nil => rfl
    | cons e l ih =>
      simp only [List.filter_cons, List.map_cons, Entry.key]
      split <;> simp [ih]
  rw [State.liveCount, State.liveCount, this, this, h.keys]

theorem State.NoMore.liveEntry {a b : State} (h : a.NoMore b) (p : Port) (tag : Byte) :
    (a.liveEntry p tag).isSome = (b.liveEntry p tag).isSome := by
  have : ∀ l : List Entry, (l.find? fun e => e.is p tag && e.live).isSome
      = (l.map Entry.key).any fun x => x.1 == p && x.2.1 == tag && x.2.2 := by
    intro l
    induction l with
    | nil => rfl
    | cons e l ih =>
      simp only [List.find?_cons, List.map_cons, List.any_cons, ← ih]
      change _ = ((e.is p tag && e.live) || _)
      cases e.is p tag && e.live <;> simp
  rw [State.liveEntry, State.liveEntry, this, this, h.keys]

/-- Replacing one element moves a sum by at most what that element moves. -/
theorem sum_map_set_le {α : Type} (g : α → Nat) (k : Nat) (a : α) :
    ∀ (l : List α) (i : Nat) (h : i < l.length), g a ≤ g l[i] + k →
      ((l.set i a).map g).sum ≤ (l.map g).sum + k := by
  intro l
  induction l with
  | nil => intro i h; simp at h
  | cons x l ih =>
    intro i h hg
    cases i with
    | zero => simp only [List.set_cons_zero, List.map_cons, List.sum_cons, List.getElem_cons_zero] at hg ⊢; omega
    | succ i =>
      simp only [List.set_cons_succ, List.map_cons, List.sum_cons, List.getElem_cons_succ] at hg ⊢
      have := ih i (by simpa using h) hg
      omega

/-- Replacing one element by a smaller one lowers a sum. -/
theorem sum_map_set_add_le {α : Type} (g : α → Nat) (k : Nat) (a : α) :
    ∀ (l : List α) (i : Nat) (h : i < l.length), g a + k ≤ g l[i] →
      ((l.set i a).map g).sum + k ≤ (l.map g).sum := by
  intro l
  induction l with
  | nil => intro i h; simp at h
  | cons x l ih =>
    intro i h hg
    cases i with
    | zero => simp only [List.set_cons_zero, List.map_cons, List.sum_cons, List.getElem_cons_zero] at hg ⊢; omega
    | succ i =>
      simp only [List.set_cons_succ, List.map_cons, List.sum_cons, List.getElem_cons_succ] at hg ⊢
      have := ih i (by simpa using h) hg
      omega

theorem toList_set {α : Type} {n : Nat} (v : Vector α n) (i : Fin n) (a : α) :
    (v.set i a).toList = v.toList.set i.val a := by
  rcases v with ⟨⟨l⟩, h⟩
  rfl

theorem queued_modChan_le (s : State) (c : Chan) (f : Channel → Channel) (k : Nat)
    (h : (f (s.chan c)).queue.length ≤ (s.chan c).queue.length + k) :
    (s.modChan c f).queued ≤ s.queued + k := by
  have := sum_map_set_le (fun ch : Channel => ch.queue.length) k (f s.channels[c]) s.channels.toList c.val
    (by simp) (by simpa [State.chan] using h)
  unfold State.queued State.modChan
  rw [toList_set]
  exact this

theorem queued_modChan_add_le (s : State) (c : Chan) (f : Channel → Channel) (k : Nat)
    (h : (f (s.chan c)).queue.length + k ≤ (s.chan c).queue.length) :
    (s.modChan c f).queued + k ≤ s.queued := by
  have := sum_map_set_add_le (fun ch : Channel => ch.queue.length) k (f s.channels[c]) s.channels.toList c.val
    (by simp) (by simpa [State.chan] using h)
  unfold State.queued State.modChan
  rw [toList_set]
  exact this

/-- A write of a channel that lengthens no queue. -/
theorem noMore_modChan (s : State) (c : Chan) (f : Channel → Channel)
    (h : (f (s.chan c)).queue.length ≤ (s.chan c).queue.length) : (s.modChan c f).NoMore s :=
  ⟨le_refl _, rfl, queued_modChan_le s c f 0 h⟩

/-- A write of an entry that keeps its name and whether it is live. -/
theorem noMore_modEntry (s : State) (p : Port) (tag : Byte) (f : Entry → Entry)
    (h : ∀ e, (f e).key = e.key) : (s.modEntry p tag f).NoMore s := by
  refine ⟨le_refl _, ?_, le_refl _⟩
  show (s.table.map fun e => if e.is p tag then f e else e).map Entry.key = _
  rw [List.map_map]
  refine List.map_congr_left fun e _ => ?_
  show (if e.is p tag then f e else e).key = e.key
  split <;> simp [h]

theorem noMore_modReflex (s : State) (x : ReflexNo) (f : Reflex → Reflex) : (s.modReflex x f).NoMore s :=
  ⟨le_refl _, rfl, le_refl _⟩

theorem noMore_arbiter (s : State) (a : Arbiter) : State.NoMore { s with arbiter := a } s :=
  ⟨le_refl _, rfl, le_refl _⟩

/-- A move to a stage other than DONE_HELD keeps whether an entry is live. -/
theorem Entry.key_moveTo (e : Entry) (stage : Stage) (h : stage ≠ .doneHeld) :
    (e.moveTo stage).key = e.key := by
  unfold Entry.moveTo
  split
  · rename_i hl
    have : (stage != .doneHeld) = true := by simpa using h
    simp only [Entry.key, hl]
    rw [show ({ e with stage := stage } : Entry).live = true from this]
  · rfl

/-! ## The operations of the pipeline -/

theorem noMore_tellHeatWait (s : State) (o : Owner) : (s.tellHeatWait o).NoMore s := by
  cases o with
  | order p tag => exact noMore_modEntry s p tag _ fun _ => rfl
  | reflex x => exact ⟨le_refl _, rfl, le_refl _⟩

theorem noMore_tellRailWait (s : State) (o : Owner) : (s.tellRailWait o).NoMore s := by
  cases o with
  | order p tag => exact noMore_modEntry s p tag _ fun _ => rfl
  | reflex x => exact ⟨le_refl _, rfl, le_refl _⟩

theorem noMore_tellKick (s : State) (o : Owner) : (s.tellKick o).NoMore s := by
  cases o with
  | order p tag =>
    exact noMore_modEntry s p tag _ fun e => e.key_moveTo .running (by simp)
  | reflex x => exact ⟨le_refl _, rfl, le_refl _⟩

theorem noMore_setPhase (s : State) (c : Chan) (ph : Phase) : (s.setPhase c ph).NoMore s :=
  (noMore_arbiter _ _).trans (noMore_modChan s c _ (le_refl _))

theorem noMore_updateHeat (s : State) (c : Chan) : (s.updateHeat c).NoMore s :=
  noMore_modChan s c _ (le_refl _)

theorem noMore_grant (s : State) (m : Member) : (s.grant m).NoMore s := by
  unfold State.grant
  refine (noMore_tellKick _ _).trans ?_
  refine State.NoMore.trans ?_ (noMore_setPhase s m.channel .kick)
  exact noMore_modChan _ _ _ (List.length_filter_le _ _)

theorem noMore_examineFrom (l : List Member) : ∀ s, (examineFrom l s).NoMore s := by
  induction l with
  | nil => exact fun s => State.NoMore.refl s
  | cons m l ih =>
    intro s
    rw [examineFrom]
    split
    · exact ((ih _).trans (noMore_grant _ m)).trans (noMore_arbiter s _)
    · exact State.NoMore.refl s

theorem noMore_examine (s : State) : s.examine.NoMore s := noMore_examineFrom _ s

theorem noMore_examineIf (s : State) (ex : Bool) : (s.examineIf ex).NoMore s := by
  unfold State.examineIf
  split
  · exact noMore_examine s
  · exact State.NoMore.refl s

theorem noMore_join (s : State) (ex : Bool) (c : Chan) (q : QueueMember) : (s.join ex c q).NoMore s := by
  have h1 : State.NoMore (s.modChan c fun ch => { ch with front := .admission }) s :=
    noMore_modChan s c _ (le_refl _)
  unfold State.join
  dsimp only
  split
  · split
    · exact (noMore_tellRailWait _ _).trans ((noMore_examine _).trans ((noMore_arbiter _ _).trans h1))
    · exact (noMore_examine _).trans ((noMore_arbiter _ _).trans h1)
  · exact (noMore_arbiter _ _).trans h1

theorem noMore_depart (s : State) (ex : Bool) (c : Chan) : (s.depart ex c).NoMore s := by
  unfold State.depart
  split
  · exact (noMore_examineIf _ ex).trans (noMore_arbiter s _)
  · exact State.NoMore.refl s

theorem noMore_tellRailWaits (l : List Member) : ∀ s : State, (s.tellRailWaits l).NoMore s := by
  induction l with
  | nil => exact State.NoMore.refl
  | cons m l ih => exact fun s => (ih _).trans (noMore_tellRailWait s m.owner)

theorem noMore_displace (s : State) (ex : Bool) (c : Chan) : (s.displace ex c).NoMore s := by
  unfold State.displace
  refine (noMore_depart _ ex c).trans ((noMore_modChan _ c _ (le_refl _)).trans ?_)
  split
  · exact State.NoMore.refl s
  · exact noMore_tellRailWaits _ s

theorem noMore_kickTest (s : State) (ex : Bool) (c : Chan) : (s.kickTest ex c).NoMore s := by
  unfold State.kickTest
  split
  · exact State.NoMore.refl s
  · dsimp only
    split
    · exact (noMore_join _ ex c _).trans (noMore_updateHeat s c)
    · exact (noMore_tellHeatWait _ _).trans
        ((noMore_modChan _ c _ (le_refl _)).trans (noMore_updateHeat s c))

theorem noMore_leaveQueue (s : State) (ex : Bool) (c : Chan) (o : Owner) :
    (s.leaveQueue ex c o).NoMore s := by
  unfold State.leaveQueue
  dsimp only
  split
  · exact (noMore_depart _ ex c).trans (noMore_modChan s c _ (List.length_filter_le _ _))
  · exact noMore_modChan s c _ (List.length_filter_le _ _)

/-- The removal of a front from its queue. -/
theorem queued_leaveQueue_front (s : State) (ex : Bool) (c : Chan) (q : QueueMember)
    (qs : List QueueMember) (h : (s.chan c).queue = q :: qs) :
    (s.leaveQueue ex c q.owner).queued + 1 ≤ s.queued := by
  have h1 : ∀ fr : Front, (s.modChan c fun ch =>
      { ch with queue := ch.queue.filter fun x => x.owner != q.owner, front := fr }).queued + 1
      ≤ s.queued := by
    intro fr
    apply queued_modChan_add_le
    dsimp only
    rw [h]
    simp only [List.filter_cons, bne_self_eq_false, Bool.false_eq_true, if_false, List.length_cons]
    have := List.length_filter_le (fun x : QueueMember => x.owner != q.owner) qs
    omega
  unfold State.leaveQueue
  dsimp only
  split
  · exact le_trans (Nat.add_le_add_right (noMore_depart _ ex c).queue 1) (h1 .channelWait)
  · exact h1 (s.chan c).front

theorem length_insertQueue (q : QueueMember) (l : List QueueMember) :
    (insertQueue q l).length = l.length + 1 := by
  induction l with
  | nil => rfl
  | cons x l ih => rw [insertQueue]; split <;> simp [ih]

/-! ## Every part lowers the bound -/

theorem workWeight_append (a b : List Work) : workWeight (a ++ b) = workWeight a + workWeight b := by
  simp [workWeight]

/-- A part after which less is left. -/
theorem bound_lt {w : Work} {ws : List Work} {s : State} {r : WorkResult}
    (h : 100 * r.state.ringOrders + 12 * r.state.liveCount + 3 * r.state.queued
        + (workWeight r.next + workWeight r.last)
      < 100 * s.ringOrders + 12 * s.liveCount + 3 * s.queued + w.weight) :
    workBound (r.next ++ ws ++ r.last) r.state < workBound (w :: ws) s := by
  have h1 : workWeight (w :: ws) = w.weight + workWeight ws := by simp [workWeight]
  simp only [workBound, workWeight_append, h1]
  omega

/-- A part that leads to less than it weighs. -/
theorem bound_lt_of_noMore {w : Work} {ws : List Work} {s : State} {r : WorkResult}
    (h : r.state.NoMore s) (hw : workWeight r.next + workWeight r.last < w.weight) :
    workBound (r.next ++ ws ++ r.last) r.state < workBound (w :: ws) s := by
  have := h.ring; have := h.live; have := h.queue
  exact bound_lt (by omega)

theorem enqueue_bound (ex : Bool) (c : Chan) (q : QueueMember) (s : State) :
    (enqueue ex c q s).state.ringOrders ≤ s.ringOrders
      ∧ (enqueue ex c q s).state.liveCount ≤ s.liveCount
      ∧ (enqueue ex c q s).state.queued ≤ s.queued + 1
      ∧ workWeight (enqueue ex c q s).next ≤ 2 ∧ (enqueue ex c q s).last = [] := by
  have hq : (s.modChan c fun ch => { ch with queue := insertQueue q ch.queue }).queued ≤ s.queued + 1 :=
    queued_modChan_le s c _ 1 (le_of_eq (length_insertQueue q _))
  unfold enqueue
  dsimp only
  split
  · have h := noMore_displace (s.modChan c fun ch => { ch with queue := insertQueue q ch.queue }) ex c
    exact ⟨h.ring, h.live, le_trans h.queue hq, by simp [workWeight, Work.weight], rfl⟩
  · exact ⟨le_refl _, le_refl _, hq, by simp [workWeight], rfl⟩

/-- The channel that offers next is one of those asked, and its front waits to be offered. -/
theorem nextOffer_mem {s : State} {cs : List Chan} {c : Chan} (h : s.nextOffer cs = some c) :
    c ∈ cs ∧ s.awaitsOffer c = true := by
  unfold State.nextOffer at h
  simp only [Option.or_eq_some_iff] at h
  rw [← List.mem_filter]
  rcases h with (h | ⟨-, h⟩) | ⟨-, h⟩
  · exact List.mem_of_find?_eq_some h
  · obtain ⟨e, -, he⟩ := List.exists_of_findSome?_eq_some h
    exact List.mem_of_find?_eq_some he
  · exact List.mem_of_head? h

/-- No channel offers exactly when none of those asked has a front that waits to be offered. -/
theorem nextOffer_eq_none {s : State} {cs : List Chan} :
    s.nextOffer cs = none ↔ ∀ c ∈ cs, s.awaitsOffer c = false := by
  constructor
  · intro h c hc
    unfold State.nextOffer at h
    simp only [Option.or_eq_none_iff, List.head?_eq_none_iff, List.filter_eq_nil_iff] at h
    simpa using h.2 c hc
  · intro h
    cases hn : s.nextOffer cs with
    | none => rfl
    | some c => exact absurd (nextOffer_mem hn).2 (by simp [h c (nextOffer_mem hn).1])

/-- A channel asked alone offers if its front waits to be offered. -/
theorem nextOffer_one (s : State) (c : Chan) :
    s.nextOffer [c] = if s.awaitsOffer c then some c else none := by
  cases h : s.nextOffer [c] with
  | none => simp [nextOffer_eq_none.mp h c (by simp)]
  | some d =>
    obtain ⟨hd, hw⟩ := nextOffer_mem h
    obtain rfl : d = c := by simpa using hd
    simp [hw]

@[simp] theorem nextOffer_nil (s : State) : s.nextOffer [] = none := nextOffer_eq_none.mpr (by simp)

theorem offer_bound (ex : Bool) (cs : List Chan) (ws : List Work) (s : State) :
    workBound ((offer ex cs s).next ++ ws ++ (offer ex cs s).last) (offer ex cs s).state
      < workBound (.offer cs :: ws) s := by
  unfold offer
  split
  · exact bound_lt_of_noMore (State.NoMore.refl s) (by simp [workWeight, Work.weight])
  · rename_i c hc
    split
    · exact bound_lt_of_noMore (State.NoMore.refl s) (by simp [workWeight, Work.weight])
    · rename_i q qs hq
      split
      · refine bound_lt_of_noMore (noMore_kickTest s ex c) ?_
        have : (cs.filter (· != c)).length < cs.length :=
          List.length_filter_lt_length_iff_exists.mpr ⟨c, (nextOffer_mem hc).1, by simp⟩
        simp only [workWeight, Work.weight, List.map_cons, List.map_nil, List.sum_cons, List.sum_nil]
        omega
      · have h1 := noMore_leaveQueue s ex c q.owner
        have h2 := queued_leaveQueue_front s ex c q qs hq
        have := h1.ring; have := h1.live
        simp only
        split
        · refine bound_lt ?_
          simp only [workWeight, Work.weight, List.map_cons, List.map_nil, List.sum_cons, List.sum_nil]
          omega
        · rename_i x _
          have h3 : ((s.leaveQueue ex c q.owner).dropRequest x .oversize).NoMore _ :=
            noMore_modReflex _ x _
          have := h3.ring; have := h3.live; have := h3.queue
          refine bound_lt ?_
          simp only [workWeight, Work.weight, List.map_cons, List.map_nil, List.sum_cons, List.sum_nil]
          omega

theorem arrive_bound (ex : Bool) (p : Port) (tag : Byte) (ws : List Work) (s : State) :
    workBound ((arrive ex p tag s).next ++ ws ++ (arrive ex p tag s).last) (arrive ex p tag s).state
      < workBound (.arrive p tag :: ws) s := by
  unfold arrive
  split
  · exact bound_lt_of_noMore (State.NoMore.refl s) (by simp [workWeight, Work.weight])
  · dsimp only
    split
    · exact bound_lt_of_noMore (State.NoMore.refl s) (by simp [workWeight, Work.weight])
    · exact bound_lt_of_noMore (State.NoMore.refl s) (by simp [workWeight, Work.weight])
    · rename_i e _ _ _ _
      have h1 := noMore_modEntry s p tag
        (fun x => { x.moveTo .queued with arrival := some (s.chan e.order.channel).arrivals })
        (fun x => x.key_moveTo .queued (by simp))
      have h2 := (noMore_modChan _ e.order.channel
        (fun ch => { ch with arrivals := (s.chan e.order.channel).arrivals + 1 }) (le_refl _)).trans h1
      have h3 := h2.ring; have h4 := h2.live; have h5 := h2.queue
      obtain ⟨a, b, c, d, f⟩ := enqueue_bound ex e.order.channel
        { owner := .order p tag, priority := e.order.priority, arrival := (s.chan e.order.channel).arrivals }
        ((s.modEntry p tag fun x =>
          { x.moveTo .queued with arrival := some (s.chan e.order.channel).arrivals }).modChan
            e.order.channel fun ch => { ch with arrivals := (s.chan e.order.channel).arrivals + 1 })
      have hn : workWeight [] = 0 := rfl
      have h6 := le_trans a h3
      have h7 := le_trans b h4
      have h8 := le_trans c (Nat.add_le_add_right h5 1)
      refine bound_lt ?_
      rw [f, hn]
      exact (by omega : ∀ {a b c d a' b' c' : Nat}, a ≤ a' → b ≤ b' → c ≤ c' + 1 → d ≤ 2 →
        100 * a + 12 * b + 3 * c + (d + 0) < 100 * a' + 12 * b' + 3 * c' + 6) h6 h7 h8 d

theorem ready_bound (p : Port) (tag : Byte) (ws : List Work) (s : State) :
    workBound ((ready p tag s).next ++ ws ++ (ready p tag s).last) (ready p tag s).state
      < workBound (.ready p tag :: ws) s := by
  unfold ready
  split
  · exact bound_lt_of_noMore (State.NoMore.refl s) (by simp [workWeight, Work.weight])
  · split
    · exact bound_lt_of_noMore (State.NoMore.refl s) (by simp [workWeight, Work.weight])
    · split
      · exact bound_lt_of_noMore (State.NoMore.refl s) (by simp [workWeight, Work.weight])
      · refine bound_lt_of_noMore (noMore_modEntry s p tag _ fun e => e.key_moveTo _ (by simp))
          (by simp [workWeight, Work.weight])

/-- A write of a port that lengthens no ring. -/
theorem ringOrders_modPort_le (s : State) (p : Port) (f : PortState → PortState)
    (h : (f (s.port p)).ring.slots.length ≤ (s.port p).ring.slots.length) :
    (s.modPort p f).ringOrders ≤ s.ringOrders := by
  cases p <;> simp only [State.ringOrders, State.modPort, State.port, PerPort.get, PerPort.set] at h ⊢ <;>
    omega

theorem liveCount_freeEntry_lt (s : State) (p : Port) (tag : Byte) (e : Entry)
    (h : s.liveEntry p tag = some e) : (s.freeEntry p tag).liveCount < s.liveCount := by
  obtain ⟨hm, hl⟩ : e ∈ s.table ∧ (e.is p tag && e.live) = true :=
    ⟨List.mem_of_find?_eq_some h, by
      have := List.find?_some (p := fun e : Entry => e.is p tag && e.live) h
      exact this⟩
  have : ∀ l : List Entry, e ∈ l → ((l.filter fun e => !e.is p tag).filter Entry.live).length
      < (l.filter Entry.live).length := by
    intro l
    have hle : ∀ l : List Entry, ((l.filter fun e => !e.is p tag).filter Entry.live).length
        ≤ (l.filter Entry.live).length := fun l =>
      ((List.filter_sublist (l := l)).filter _).length_le
    induction l with
    | nil => intro h; cases h
    | cons x l ih =>
      intro hx
      simp only [Bool.and_eq_true] at hl
      rcases List.mem_cons.mp hx with rfl | hx
      · have := hle l
        simp only [List.filter_cons, hl.1, hl.2, Bool.not_true, Bool.false_eq_true, if_false, if_true,
          List.length_cons]
        omega
      · have := ih hx
        simp only [List.filter_cons]
        split <;> split <;> simp_all
  exact this s.table hm

theorem liveCount_holdEntry_lt (s : State) (p : Port) (tag : Byte) (e : Entry)
    (h : s.liveEntry p tag = some e) :
    (s.modEntry p tag fun e => { e with stage := .doneHeld }).liveCount < s.liveCount := by
  obtain ⟨hm, hl⟩ : e ∈ s.table ∧ (e.is p tag && e.live) = true :=
    ⟨List.mem_of_find?_eq_some h, by
      have := List.find?_some (p := fun e : Entry => e.is p tag && e.live) h
      exact this⟩
  have hfree := liveCount_freeEntry_lt s p tag e h
  have : (s.modEntry p tag fun e => { e with stage := .doneHeld }).liveCount
      = (s.freeEntry p tag).liveCount := by
    have : ∀ l : List Entry,
        ((l.map fun e => if e.is p tag then { e with stage := .doneHeld } else e).filter Entry.live).length
          = ((l.filter fun e => !e.is p tag).filter Entry.live).length := by
      intro l
      induction l with
      | nil => rfl
      | cons x l ih =>
        by_cases hx : x.is p tag = true
        · simp only [List.map_cons, List.filter_cons, hx, if_true, Bool.not_true, Bool.false_eq_true,
            if_false, Entry.live, bne_self_eq_false]
          exact ih
        · simp only [List.map_cons, List.filter_cons, if_neg hx, Bool.not_eq_true] at *
          simp only [hx, Bool.not_false, if_true, List.filter_cons]
          split <;> simp [ih]
    exact this s.table
  omega

theorem conclude_bound (s : State) (e : Entry) (status : EndStatus)
    (h : (s.liveEntry e.port e.order.tag).isSome) :
    (s.conclude e status).ringOrders ≤ s.ringOrders ∧ (s.conclude e status).liveCount < s.liveCount
      ∧ (s.conclude e status).queued ≤ s.queued := by
  obtain ⟨e', h⟩ := Option.isSome_iff_exists.mp h
  have hf : ∀ (s : State) (p : Port) (tag : Byte), (s.freeEntry p tag).ringOrders = s.ringOrders :=
    fun _ _ _ => rfl
  have hm : ∀ (s : State) (p : Port) (tag : Byte) (f : Entry → Entry),
      (s.modEntry p tag f).ringOrders = s.ringOrders := fun _ _ _ _ => rfl
  unfold State.conclude
  dsimp only
  generalize hs1 : (s.modPort e.port fun ps =>
    { ps with tail := ps.tail.atEnd e.order.tag status.good }) = s1
  have h1 : s1.ringOrders ≤ s.ringOrders := by
    rw [← hs1]; exact ringOrders_modPort_le s _ _ (by exact le_refl _)
  have h2 : s1.table = s.table := by rw [← hs1]; rfl
  have h3 : s1.queued = s.queued := by rw [← hs1]; rfl
  have h4 : s1.liveEntry e.port e.order.tag = some e' := by rw [State.liveEntry, h2]; exact h
  have h5 : s1.liveCount = s.liveCount := by rw [State.liveCount, State.liveCount, h2]
  split
  · refine ⟨by rw [hf]; exact h1, ?_, le_of_eq h3⟩
    rw [← h5]; exact liveCount_freeEntry_lt s1 _ _ e' h4
  · split
    · refine ⟨?_, ?_, le_of_eq h3⟩
      · rw [hf]; exact le_trans (ringOrders_modPort_le s1 _ _ (by exact le_refl _)) h1
      · rw [← h5]; exact liveCount_freeEntry_lt s1 _ _ e' h4
    · refine ⟨?_, ?_, le_of_eq h3⟩
      · rw [hm]; exact le_trans (ringOrders_modPort_le s1 _ _ (by exact le_refl _)) h1
      · rw [← h5]; exact liveCount_holdEntry_lt s1 _ _ e' h4

/-- An entry that `liveEntry` finds is the one asked for. -/
theorem liveEntry_is {s : State} {p : Port} {tag : Byte} {e : Entry} (h : s.liveEntry p tag = some e) :
    e.port = p ∧ e.order.tag = tag := by
  have := List.find?_some (p := fun e : Entry => e.is p tag && e.live) h
  simpa [Entry.is] using (Bool.and_eq_true_iff.mp this).1

theorem followerWork_weight (s : State) (p : Port) (tag : Byte) (good : Bool) :
    workWeight (s.followerWork p tag good) ≤ 7 := by
  unfold State.followerWork
  split
  · simp [workWeight]
  · split <;> simp [workWeight, Work.weight]

theorem finish_bound (ex : Bool) (p : Port) (tag : Byte) (status : EndStatus) (ws : List Work) (s : State) :
    workBound ((finish ex p tag status s).next ++ ws ++ (finish ex p tag status s).last)
        (finish ex p tag status s).state < workBound (.finish p tag status :: ws) s := by
  unfold finish
  split
  · exact bound_lt_of_noMore (State.NoMore.refl s) (by simp [workWeight, Work.weight])
  · rename_i e he
    obtain ⟨rfl, rfl⟩ := liveEntry_is he
    have h := noMore_leaveQueue s ex e.order.channel (.order e.port e.order.tag)
    have hl : ((s.leaveQueue ex e.order.channel (.order e.port e.order.tag)).liveEntry e.port
        e.order.tag).isSome = true := by
      rw [h.liveEntry, he]; rfl
    obtain ⟨a, b, c⟩ := conclude_bound _ e status hl
    have a := le_trans a h.ring
    have b := lt_of_lt_of_le b h.live
    have c := le_trans c h.queue
    refine bound_lt ?_
    dsimp only
    rw [workWeight_append]
    have h1 := followerWork_weight
      ((s.leaveQueue ex e.order.channel (.order e.port e.order.tag)).conclude e status)
      e.port e.order.tag status.good
    have h2 : workWeight (if (s.chan e.order.channel).isTestingFront (.order e.port e.order.tag) = true
        then [Work.offer [e.order.channel]] else []) ≤ 2 := by
      split <;> simp [workWeight, Work.weight]
    have h3 : workWeight [Work.takes e.port] = 1 := rfl
    rw [h3]
    exact (by omega : ∀ {a b c a' b' c' v w : Nat}, a ≤ a' → b < b' → c ≤ c' → v ≤ 2 → w ≤ 7 →
      100 * a + 12 * b + 3 * c + (w + v + 1) < 100 * a' + 12 * b' + 3 * c' + 1) a b c h2 h1

theorem takeOutcome_weight (p : Port) (slot : Slot) (tail : Tail) :
    workWeight (takeOutcome p slot tail).2 ≤ 7 := by
  unfold takeOutcome
  dsimp only
  repeat' split
  all_goals simp [workWeight, Work.weight]

theorem ringOrders_take (s : State) (p : Port) (slot : Slot) (rest : List Slot) (tail : Tail) (head : Nat)
    (h : (s.port p).ring.slots = slot :: rest) :
    (s.modPort p fun ps => { ps with ring := ⟨head, rest⟩, tail := tail }).ringOrders + 1 = s.ringOrders := by
  have := congrArg List.length h
  simp only [List.length_cons] at this
  cases p <;> simp only [State.ringOrders, State.modPort, State.port, PerPort.get, PerPort.set] at this ⊢ <;>
    omega

/-- One more entry is at most one more live entry. -/
theorem liveCount_push (s : State) (e : Entry) :
    State.liveCount { s with table := s.table ++ [e] } ≤ s.liveCount + 1 := by
  have h := List.length_filter_le Entry.live [e]
  simp only [List.length_singleton] at h
  simp only [State.liveCount, List.filter_append, List.length_append]
  omega

theorem takeHead_bound (p : Port) (ws : List Work) (s : State) :
    workBound ((takeHead p s).next ++ ws ++ (takeHead p s).last) (takeHead p s).state
      < workBound (.takes p :: ws) s := by
  cases hs : (s.port p).ring.slots with
  | nil =>
    have : takeHead p s = ⟨[], [], s⟩ := by rw [takeHead]; dsimp only; rw [hs]
    rw [this]
    exact bound_lt_of_noMore (State.NoMore.refl s) (by simp [workWeight, Work.weight])
  | cons slot rest =>
    by_cases hq : (s.entriesOf p).length < Config.quota
    · have : takeHead p s = ⟨(takeOutcome p slot (s.port p).tail).2, [.takes p],
          { (s.modPort p fun ps =>
              { ps with
                ring := ⟨((s.port p).ring.head + 1) % Config.ringSize, rest⟩
                tail := ⟨some slot.order.tag, .live⟩ }) with
            table := s.table ++ [Entry.taken p slot.order (takeOutcome p slot (s.port p).tail).1] }⟩ := by
        rw [takeHead]; dsimp only; rw [hs]; dsimp only; rw [if_pos hq]; rfl
      rw [this]
      refine bound_lt ?_
      have h1 := takeOutcome_weight p slot (s.port p).tail
      have h2 := ringOrders_take s p slot rest ⟨some slot.order.tag, .live⟩
        (((s.port p).ring.head + 1) % Config.ringSize) hs
      have h3 := liveCount_push s (Entry.taken p slot.order (takeOutcome p slot (s.port p).tail).1)
      have h4 : workWeight [Work.takes p] = 1 := rfl
      have h5 : (Work.takes p).weight = 1 := rfl
      rw [h4, h5]
      exact (by omega : ∀ {a b c w a' b' : Nat}, w ≤ 7 → a + 1 = a' → b ≤ b' + 1 →
        100 * a + 12 * b + 3 * c + (w + 1) < 100 * a' + 12 * b' + 3 * c + 1) h1 h2 h3
    · have : takeHead p s = ⟨[], [], s⟩ := by
        rw [takeHead]; dsimp only; rw [hs]; dsimp only; rw [if_neg hq]
      rw [this]
      exact bound_lt_of_noMore (State.NoMore.refl s) (by simp [workWeight, Work.weight])

/-- Every part lowers the bound. -/
theorem run_bound (ex : Bool) (w : Work) (ws : List Work) (s : State) :
    workBound ((w.run ex s).next ++ ws ++ (w.run ex s).last) (w.run ex s).state < workBound (w :: ws) s := by
  cases w with
  | offer cs => exact offer_bound ex cs ws s
  | finish p tag status => exact finish_bound ex p tag status ws s
  | ready p tag => exact ready_bound p tag ws s
  | arrive p tag => exact arrive_bound ex p tag ws s
  | takes p => exact takeHead_bound p ws s

/-! ## The equations of `State.doAll` -/

/-- More turns than the bound change nothing. -/
theorem doWork_enough (ex : Bool) (n : Nat) :
    ∀ (m : Nat) (ws : List Work) (s : State), workBound ws s ≤ n → workBound ws s ≤ m →
      doWork ex n ws s = doWork ex m ws s := by
  induction n with
  | zero =>
    intro m ws s hn hm
    cases ws with
    | nil => cases m <;> rfl
    | cons w ws =>
      have := run_bound ex w ws s
      omega
  | succ n ih =>
    intro m ws s hn hm
    cases ws with
    | nil => cases m <;> rfl
    | cons w ws =>
      have h := run_bound ex w ws s
      cases m with
      | zero => omega
      | succ m => exact ih m _ _ (by omega) (by omega)

/-- With nothing left to do, nothing is done. -/
@[simp] theorem doAll_nil (ex : Bool) (s : State) : s.doAll ex [] = s := by
  unfold State.doAll
  cases workBound [] s <;> rfl

/-- The part at the front is done, and then all that it leads to and all that was left. -/
theorem doAll_cons (ex : Bool) (w : Work) (ws : List Work) (s : State) :
    s.doAll ex (w :: ws) = (w.run ex s).state.doAll ex ((w.run ex s).next ++ ws ++ (w.run ex s).last) := by
  have h := run_bound ex w ws s
  unfold State.doAll
  obtain ⟨n, hn⟩ : ∃ n, workBound (w :: ws) s = n + 1 := ⟨workBound (w :: ws) s - 1, by omega⟩
  rw [hn]
  exact doWork_enough ex n _ _ _ (by omega) (le_refl _)

end Sys2Proof.Machine
end

