-- ==== Sys2Proof/Tests/Slice0.lean ====
section
/-!
SUPPORT. The model's own tests: the WellFormed smoke test, frames and figures taken from the spec's text and
tables, and for every statement with hypotheses a concrete state and operands that meet them, clause by
clause.
-/

namespace Sys2Proof.Tests

open Sys2Proof.Machine

-- One theorem after another: each waits for the kernel, and all at once would take a thread each.
set_option Elab.async false

/-! ## Small states -/

/-- The part after power-on, as every test starts. -/
abbrev base : State := State.reset

/-- A state in a table mode, with the rail in a state. -/
def inMode (mode : Mode) (rail : Rail) : State :=
  { base with control := { base.control with mode := mode, rail := rail } }

/-- A state with a budget and no reserve. -/
def withBudget (s : State) (b : Nat) : State := { s with arbiter := { s.arbiter with budget := b } }

/-- The profile the tests use: kick 100 ticks at draw 8, hold 4/16, fold 2/16, heat factor 1, cooling 1,
ceiling 10000, recycle 50, sense delay 0 or 10. -/
def aProfile (senseDelay : Nat) : Profile :=
  { Profile.default with
    enabled := true
    posting := .const true
    kickTime := 100
    kickDraw := 8
    holdDuty := 4
    foldDuty := 2
    cooling := 1
    ceiling := 10000
    recycle := 50
    senseDelay := senseDelay }

/-- A state with channel 0 on the tests' profile and in a state. -/
def chan0 (s : State) (phase : Phase) (senseDelay : Nat) : State :=
  s.modChan 0 fun ch => { ch with profile := aProfile senseDelay, phase := phase, effectiveFold := 0 }

/-- A pulse of an owner that started at moment 0. -/
def aPulse (o : Owner) (kind : PulseKind) (check : OpenCheck) : Pulse :=
  { owner := o
    owned := true
    kind := kind
    kickLength := 100
    start := 0
    recycleLength := 50
    released := false
    latched := none
    openCheck := check
    foldAt := none
    recycleAt := none }

/-- A state with a pulse on channel 0 at moment 100. -/
def pulsing (phase : Phase) (senseDelay : Nat) (pu : Pulse) : State :=
  { (chan0 base phase senseDelay).modChan 0 fun ch => { ch with pulse := some pu } with now := 100 }

/-- A PULSE order of port 0 with tag 1 on channel 0, in its working values. -/
def anOrder (kind : OrderKind) (due : Option TableTime) : Order :=
  { tag := 1
    channel := 0
    kind := kind
    priority := 4
    fraction := 16
    count := 1
    gap := 0
    follow := false
    quiet := false
    due := due }

/-- A pending entry of that order. -/
def anEntry (kind : OrderKind) (stage : Stage) : Entry := Entry.taken .p0 (anOrder kind none) stage

/-- A state with a port's record changed. -/
def atPort (f : PortState → PortState) : State := base.modPort .p0 f

/-- A state with port 0's link changed. -/
def atLink (f : Link → Link) : State := base.modLink .p0 f

/-- The READ CLOCK frame (11, section 11.5). -/
def clockFrame : List Byte := [0x04, 0x11, 0x00, 0xE9]

/-- A state with a list of pending entries. -/
def withTable (s : State) (l : List Entry) : State := { s with table := l }

/-- A state with one lamp changed. -/
def withLamp (f : Lamp → Lamp) : State := base.modLamp 0 f

/-- A lit cell. -/
def aLight (pattern : Pattern) : Light := ⟨9, pattern, 0⟩

/-- A FIRE entry of X0 on a switch and channel 0, in a state. -/
def reflex0 (s : State) (state : ReflexState) : State :=
  s.modReflex 0 fun r => { r with switch := 3, enabled := true, state := state }

/-- A state at moment 100. -/
def at100 (s : State) : State := { s with now := 100 }

/-- An order record that POST ORDER carries: a PULSE on channel 0 with tag 1. -/
def postRecord (channel kind : Byte) (count : BitVec 6) : OrderRecord :=
  ⟨1, channel, kind, 4, false, false, 16, count, 0, none⟩

/-- The profile record of the spec's flipper (03, section 3.8): kick 300 ticks at draw 32, hold 4/16, fold
1/16, heat factor 2, cooling 14, ceiling 600,000. -/
def flipper : ProfileRecord :=
  { enabled := true, overtimeLatches := false, postP0 := true, postP1 := false, postP2 := false,
    kickTime := 300, kickDraw := 32, holdDuty := 4, foldDuty := 1, heatFactor := 2, cooling := 14,
    ceiling := 600000, recycle := 50, maxOn := 6000000, senseDelay := 0 }

/-- A pulse of X0 on channel 0 at moment 100. -/
def reflexPulsing (phase : Phase) (kind : PulseKind) (check : OpenCheck) (f : Pulse → Pulse) : State :=
  pulsing phase 10 (f (aPulse (.reflex 0) kind check))

/-- A request of X0 at the front of channel 0, in HEAT_WAIT until moment 100. -/
def cooling (s : State) (heat : Nat) : State :=
  at100 ((chan0 s .idle 0).modChan 0 fun ch =>
    { ch with
      queue := [⟨.reflex 0, 8, 0⟩]
      front := .heatWait 100
      heat := heat
      heatAt := 100 })

/-- Channel 0 open to the orders of every port, in GAME. -/
def postable : State := chan0 (inMode .game .on) .idle 0

/-- A further entry of port 0 on channel 0, by its tag. -/
def entryOf (tag : Byte) (kind : OrderKind) (stage : Stage) : Entry :=
  Entry.taken .p0 { anOrder kind none with tag := tag } stage

/-- The place of one of port 0's orders in a channel queue. -/
def placeOf (tag : Byte) (arrival : Nat) : QueueMember := ⟨.order .p0 tag, 4, arrival⟩

/-- A state with a queue on channel 0 and the state of its front. -/
def waitingOn (s : State) (queue : List QueueMember) (front : Front) : State :=
  s.modChan 0 fun ch => { ch with queue := queue, front := front }

/-- A state with channel 0 at a heat. -/
def heated (s : State) (heat : Nat) : State := s.modChan 0 fun ch => { ch with heat := heat, heatAt := s.now }

/-- A state with an admission list. -/
def listing (s : State) (l : List Member) : State := { s with arbiter := { s.arbiter with list := l } }

/-- A state in a table mode, with the rail in a state. -/
def moded (s : State) (mode : Mode) (rail : Rail) : State :=
  { s with control := { s.control with mode := mode, rail := rail } }

/-- A state with one of port 0's orders in its ring, by tag and mark. -/
def ringing (s : State) (tag : Byte) (mark : Option Mark) : State :=
  s.modPort .p0 fun ps => { ps with ring := ⟨0, [⟨{ anOrder .pulse none with tag := tag }, mark⟩]⟩ }

/-- The coherence of channels, in a form that a computation settles. -/
theorem coherent_of_fields (s : State)
    (h : ∀ c, (s.chan c).pulse.isSome = (s.chan c).phase.hasPulse
      ∧ (s.chan c).fault.isSome = ((s.chan c).phase == .faulted)
      ∧ ((s.chan c).phase.isLive = true → (s.chan c).pulse.bind (·.latched) = none)) : s.coherent :=
  fun c => ⟨(h c).1, (h c).2.1, fun pu hp hl => by simpa [hp] using (h c).2.2 hl⟩

/-! ## WellFormed refuses what no frame can carry (R144, R169) -/

theorem test_noCellWrites : (Instr.writeLamps .p0 []).wellFormed = false := by decide

theorem test_thirteenCellWrites :
    (Instr.writeLamps .p0 (List.replicate 13 ⟨0, 0, 0, 0, 0⟩)).wellFormed = false := by decide

theorem test_twelveCellWrites :
    (Instr.writeLamps .p0 (List.replicate 12 ⟨0, 0, 0, 0, 0⟩)).wellFormed = true := by decide

/-! ## Frames, from 11, sections 11.4 and 11.5 -/

/-- The CRC of 04h 11h 00h is E9h (11, section 11.5). -/
theorem test_crc : crc8 [0x04, 0x11, 0x00] = 0xE9 := by decide +kernel

theorem test_clockFrame :
    checkFrame (.bytes clockFrame) = .ok .readClock
      ∧ checkFrame (.bytes [0x04, 0x11, 0x00, 0xE8]) = .error .badFrame := by decide +kernel

theorem test_frameChecks :
    checkFrame (.bytes (closeFrame [0x04, 0x10, 0x00])) = .error .unknownCommand
      ∧ checkFrame (.bytes (closeFrame [0x05, 0x11, 0x00, 0x00])) = .error .badLength := by decide +kernel

/-- A frame of POST ORDER, byte by byte. -/
theorem test_postOrderFrame :
    checkFrame (.bytes (closeFrame [0x0B, 0x21, 0x2A, 0x05, 0x01, 0x43, 0x00, 0x03, 0x01, 0x00]))
      = .ok (.postOrder
        { tag := 0x2A, channel := 5, kind := 1, priority := 3, follow := true, quiet := false,
          fraction := 0, count := 3, gap := 256, due := none }) := by decide +kernel

/-- Frames of SET MODE, WRITE RAIL and SUBSCRIBE. -/
theorem test_shortFrames :
    checkFrame (.bytes (closeFrame [0x04, 0x51, 0x02])) = .ok (.setMode 2)
      ∧ checkFrame (.bytes (closeFrame [0x05, 0x41, 0x40, 0x10])) = .ok (.writeRail 0x40 0x10)
      ∧ checkFrame (.bytes (closeFrame [0x07, 0x63, 0x01, 0x00, 0x00, 0x80]))
        = .ok (.subscribe 0x80000001) := by decide +kernel

/-! ## Figures of the spec's text -/

/-- A kick fraction of 5/16 of 300 ticks is 94 ticks: 93.75 rounded up (R22). -/
theorem test_kickLength : ({ Profile.default with kickTime := 300 } : Profile).kickLength 5 = 94 := by
  decide +kernel

/-- The least interval back to an unreached time (R4). -/
theorem test_reachedWraps :
    reached 5 0xFFFFFFFF = true ∧ reached 0x7FFFFFFF 0 = true ∧ reached 0x80000000 0 = false := by
  decide +kernel

/-- The flipper's figures (03, section 3.8): n_k is 50 and n_h 2, the effective fold duty is 1, the heat at
the end of a kick from 0 is 15,000, and its hold folds 292,500 ticks later. -/
theorem test_flipper :
    (clampProfile flipper).kickRate = 50
      ∧ (clampProfile flipper).netRateAt (clampProfile flipper).holdDraw = 2
      ∧ (clampProfile flipper).foldDutyInForce = 1
      ∧ heatAfter 0 (clampProfile flipper).kickRate 300 = 15000
      ∧ (clampProfile flipper).foldTime 15000 = some 292500 := by decide +kernel

/-- The flipper's waits for a re-press: 415 ticks from 590,800 (12, section 12.2), and 872 from 597,200 (03,
section 3.8). -/
theorem test_rePress :
    (clampProfile flipper).coolingWait 590800 300 = 415
      ∧ (clampProfile flipper).coolingWait 597200 300 = 872 := by decide +kernel

/-- Powering on with a switch input low reads it closed (R109). -/
theorem test_powerOnSwitch :
    ({ base with pins := { base.pins with switch := base.pins.switch.set 3 false } } : State).powerOn.switchAt 3
      = { Switch.default true with closed := true } := by decide +kernel

/-- SET MODE to GAME from IDLE on P0 settles the rail for 2000 ticks (R134). -/
theorem test_setMode :
    (match exec (.setMode .p0 2) base with
      | .next t => t.control.mode == .game && t.control.rail == .settling 2000
      | _ => false) = true := by decide +kernel

/-- A posted PULSE kicks at once, and reads as RUNNING (R86). -/
theorem test_postedKick :
    (match exec (.postOrder .p0 (postRecord 0 0 0))
        (withBudget (chan0 (inMode .game .on) .idle 0) 100) with
      | .next t => (t.chan 0).phase == .kick && t.arbiter.units == 8
          && t.table.map (·.stage) == [.running]
      | _ => false) = true := by decide +kernel

/-- A cancelled front A with a follower B and a next member N that is too large for the rail: the records come
A, B, N (R96, R102). -/
theorem test_followerBeforeNext :
    let s := withTable (waitingOn postable [placeOf 1 0, placeOf 3 1] (.heatWait 500))
      [anEntry .pulse .queued, entryOf 3 .pulse .queued, entryOf 2 .pulse (.following 1)]
    (match exec (.cancelOrder .p0 1) s with
      | .next t => (t.port .p0).completions.map fun r => (r.tag, r.status)
      | _ => []) = [(1, .cancelled), (2, .chainBroken), (3, .oversize)] := by decide +kernel

/-! ## Hypotheses met: supply, resets, clock -/

theorem meets_StepRunsFrontOfQueue : base.pending = [] := by decide

theorem meets_UnpoweredPartTakesOnlyLevels :
    base.powerOff.powered = false
      ∧ (∃ t, exec (.switchRawChange 3 false) base.powerOff = .next t ∧ t.pins ≠ base.powerOff.pins)
      ∧ ∃ t, exec (.setMode .p0 2) base.powerOff = .next t :=
  ⟨by decide, ⟨_, rfl, by decide +kernel⟩, ⟨_, rfl⟩⟩

theorem meets_ResetnResetsTheTable :
    base.powered = true ∧ base.pins.resetn = true
      ∧ ({ base with pins := { base.pins with resetn := false } } : State).pins.resetn = false := by decide

theorem meets_ClockAndComparators :
    let s := atPort fun ps => { ps with comparator := ⟨0, true, false⟩ }
    let t := atPort fun ps => { ps with comparator := ⟨0x80000000, true, true⟩ }
    ((2147483647 : Nat) < 2 ^ 32 ∧ (2147483648 : Nat) < 2 ^ 32)
      ∧ base.ready .p1
      ∧ (s.powered = true ∧ (s.port .p0).comparator.armed = true ∧ (s.port .p0).comparator.alarm = false
        ∧ (s.port .p0).comparator.value = s.time)
      ∧ (t.powered = true ∧ (t.port .p0).comparator.armed = true ∧ (t.port .p0).comparator.alarm = true
        ∧ (t.time - (t.port .p0).comparator.value).toNat = 2 ^ 31) := by decide +kernel

/-- The hypothesis of every statement about a command of a port. -/
theorem meets_ready : base.ready .p0 ∧ base.ready .p1 ∧ base.ready .p2 := by decide

theorem meets_ClockAdvance :
    base.powered = true ∧ base.dueList = [] ∧ ∃ t, exec .tableClockAdvance base = .next t :=
  ⟨by decide, by decide +kernel, ⟨_, rfl⟩⟩

/-! ## Hypotheses met: links -/

/-- The first byte of a frame: a length of 3 or 65 is dropped, one of 4 or 64 opens a frame (R163). -/
theorem test_firstByte :
    let after := fun (b : Byte) =>
      match exec (.receiveByte .p0 b) base with
      | .next t => some (t.link .p0).receive
      | _ => none
    after 3 = some .discarding ∧ after 4 = some (.part [4]) ∧ after 64 = some (.part [64])
      ∧ after 65 = some .discarding := by decide +kernel

theorem meets_BytesAndGaps :
    let s := atLink fun l => { l with receive := .part [4], gapAt := some 0 }
    let t := atLink fun l => { l with receive := .discarding, gapAt := some 0 }
    let u := atLink fun l => { l with receive := .discarding, gapAt := some 0, sending := some [0] }
    let v := atLink fun l =>
      { l with receive := .discarding, gapAt := some 0, sending := some [0], held := some .discarded }
    (base.powered = true ∧ (base.link .p0).receive = .empty)
      ∧ ((3 : Byte).toNat < 4 ∧ (4 : Byte).toNat = 4 ∧ (64 : Byte).toNat = 64 ∧ 64 < (65 : Byte).toNat)
      ∧ (s.powered = true ∧ (s.link .p0).receive = .part [4] ∧ ([] : List Byte).length + 2 ≠ (4 : Byte).toNat)
      ∧ (s.link .p0).gapAt = some 0 ∧ 0 ≤ s.now
      ∧ ((t.link .p0).receive = .discarding ∧ (t.link .p0).sending = none)
      ∧ ((u.link .p0).receive = .discarding ∧ (u.link .p0).sending ≠ none ∧ (u.link .p0).held = none)
      ∧ ((v.link .p0).sending ≠ none ∧ (v.link .p0).held.isSome = true) := by decide

theorem meets_LastByteOfAFrame :
    let s := atLink fun l => { l with receive := .part [4, 0x11, 0] }
    let t := atLink fun l => { l with receive := .part [4, 0x11, 0], sending := some [0] }
    let u := atLink fun l =>
      { l with receive := .part [4, 0x11, 0], sending := some [0], held := some (.bytes clockFrame) }
    s.ready .p0 ∧ (s.link .p0).receive = .part [4, 0x11, 0]
      ∧ ([0x11, 0] : List Byte).length + 2 = (4 : Byte).toNat
      ∧ checkFrame (.bytes ((4 : Byte) :: [0x11, 0] ++ [0])) = .error .badFrame
      ∧ checkFrame (.bytes ((4 : Byte) :: [0x11, 0] ++ [0xE9])) = .ok .readClock
      ∧ (t.powered = true ∧ (t.link .p0).receive = .part [4, 0x11, 0] ∧ (t.link .p0).sending ≠ none
        ∧ (t.link .p0).held = none)
      ∧ ((u.link .p0).receive = .part [4, 0x11, 0] ∧ (u.link .p0).sending ≠ none
        ∧ (u.link .p0).held.isSome = true) := by
  decide +kernel

theorem meets_FrameOfACommandIsRead :
    (Command.writeLamps [⟨0, 0, 0, 0, 0⟩]).wellFormed = true
      ∧ (Command.writeLamps (List.replicate 12 ⟨39, 1, 2, 15, 3⟩)).wellFormed = true
      ∧ Command.portReset.wellFormed = true := by decide

theorem meets_FrameChecks :
    let post := Command.postOrder (postRecord 0 0 0)
    (0 : Byte) ≠ crc8 [0x04, 0x11, 0x00] ∧ (∀ c : Command, c.code ≠ 0x10)
      ∧ (7 ∉ post.bodyLengths ∧ 8 ∈ post.bodyLengths ∧ 9 ∉ post.bodyLengths ∧ 11 ∉ post.bodyLengths
        ∧ 12 ∈ post.bodyLengths ∧ 13 ∉ post.bodyLengths)
      ∧ (0 ∉ (Command.writeLamps []).bodyLengths ∧ 5 ∈ (Command.writeLamps []).bodyLengths
        ∧ 60 ∈ (Command.writeLamps []).bodyLengths ∧ 61 ∉ (Command.writeLamps []).bodyLengths)
      ∧ (0 ∉ Command.readClock.bodyLengths ∧ 1 ∈ Command.readClock.bodyLengths
        ∧ 61 ∉ Command.readClock.bodyLengths) :=
  ⟨by decide +kernel, fun c => by cases c <;> simp [Command.code], by decide, by decide, by decide⟩

theorem meets_CrcOfFrames : checkFrame (.bytes clockFrame) = .ok .readClock := by decide +kernel

theorem meets_ReplyEndTakesHeldFrame :
    let s := atLink fun l => { l with sending := some [0] }
    let t := atLink fun l => { l with sending := some [0], held := some (.bytes clockFrame) }
    let u := atLink fun l => { l with sending := some [0], held := some .discarded }
    s.powered = true ∧ (s.link .p0).sending = some [0] ∧ (s.link .p0).awaiting = none
      ∧ (s.link .p0).held = none
      ∧ (t.link .p0).held = some (.bytes clockFrame) ∧ checkFrame (.bytes clockFrame) = .ok .readClock
      ∧ (u.link .p0).held = some .discarded ∧ checkFrame .discarded = .error .badFrame := by decide +kernel

/-- A port whose reply to PORT RESET is being sent. -/
def resetting (s : State) : State :=
  s.modLink .p0 fun l => { l with sending := some [0], awaiting := some .port }

/-- A port reset of P0 takes the fronts of C0 and C1. P1's next members there are too large for the rail, and they
end OVERSIZE by their takes, C1's first (R96). -/
theorem test_oversizeOldestFirst :
    let order (tag : Byte) (c : Chan) : Entry :=
      Entry.taken .p1 { anOrder .pulse none with tag := tag, channel := c } .queued
    let queue (tag : Byte) : List QueueMember := [placeOf tag 0, ⟨.order .p1 tag, 4, 1⟩]
    let s := (waitingOn postable (queue 1) (.heatWait 500)).modChan 1 fun ch =>
      { ch with profile := aProfile 0, phase := .idle, queue := queue 2, front := .heatWait 500 }
    let first := anEntry .pulse .queued
    let second := entryOf 2 .pulse .queued
    (match exec (.replyEnd .p0)
        (resetting (withTable s [order 2 1, order 1 0, first, { second with order.channel := 1 }])) with
      | .next t => (t.port .p1).completions.map fun r => (r.tag, r.status)
      | _ => []) = [(2, .oversize), (1, .oversize)] := by decide +kernel

theorem meets_ResetsByCommand :
    let s := atLink fun l => { l with sending := some [0], awaiting := some .table }
    let t := resetting base
    let live := resetting (pulsing .kick 0 (aPulse (.order .p0 1) .plain .pending))
    let after := resetting (pulsing .recycle 0
      { aPulse (.order .p0 1) .plain .none with recycleAt := some 150 })
    (s.powered = true ∧ s.pins.resetn = true ∧ (s.link .p0).sending = some [0]
        ∧ (s.link .p0).awaiting = some .table)
      ∧ (t.powered = true ∧ (t.link .p0).sending = some [0] ∧ (t.link .p0).awaiting = some .port
        ∧ t.entriesOf .p0 = [] ∧ t.arbiter.list = []
        ∧ ∀ c, (t.chan c).queue = [] ∧ (t.chan c).pulse.any (·.ofPort .p0) = false)
      ∧ ((live.link .p0).awaiting = some .port ∧ (live.chan 0).pulse.any (·.ofPort .p0) = true
        ∧ (live.chan 0).phase.isLive = true ∧ (live.chan 0).pulse.any (0 < ·.recycleLength) = true)
      ∧ ((after.link .p0).awaiting = some .port ∧ (after.chan 0).pulse.any (·.ofPort .p0) = true
        ∧ (after.chan 0).phase = .recycle) := by decide +kernel

/-- P0's order waits for its cooling at the front of channel 0, and P1's stands behind it and is cool enough. -/
def frontOfP0 : State :=
  let second := { Entry.taken .p1 { anOrder .pulse none with fraction := 8 } .queued with arrival := some 1 }
  let first := { anEntry .pulse .queued with arrival := some 0 }
  resetting (withTable (heated (withBudget (waitingOn postable
    [placeOf 1 0, ⟨.order .p1 1, 4, 1⟩] (.heatWait 500)) 8) 9301) [first, second])

theorem meets_ResetsByCommand_next :
    let s := frontOfP0
    let first := { anEntry .pulse .queued with arrival := some 0 }
    s.coherent ∧ (s.powered = true ∧ (s.link .p0).sending = some [0] ∧ (s.link .p0).awaiting = some .port)
      ∧ (∀ m ∈ s.arbiter.list, (s.chan m.channel).isTestingFront m.owner = true)
      ∧ (∀ c : Chan, c ≠ 0 → (s.chan c).queue = [])
      ∧ (∀ d, (s.chan d).pulse.any (·.ofPort .p0) = false) ∧ first ∈ s.table ∧ first.port = .p0
      ∧ first.order.channel = 0 ∧ (s.chan 0).phase = .idle
      ∧ (s.chan 0).queue = placeOf 1 0 :: ⟨.order .p1 1, 4, 1⟩ :: [] ∧ (placeOf 1 0).owner = .order .p0 1
      ∧ (⟨.order .p1 1, 4, 1⟩ : QueueMember) ≠ placeOf 1 0
      ∧ (∀ m ∈ s.arbiter.list, m.channel = 0) ∧ s.control.rail = .on
      ∧ s.arbiter.units + (s.chan 0).profile.kickDraw ≤ s.arbiter.limit (.order .p1 1)
      ∧ (s.chan 0).profile.kickFits ((s.chan 0).heatNow s.now)
          ((s.chan 0).profile.kickLength (s.kickShape (.order .p1 1)).fraction) = true :=
  ⟨coherent_of_fields _ (by decide +kernel), by decide +kernel⟩

/-! ## Hypotheses met: inputs -/

theorem meets_MonitoredInputs_switch :
    let low := { base with pins := { base.pins with switch := base.pins.switch.set 3 false } }
    let running := base.modSwitch 3 fun sw => { sw with debounceAt := some 5 }
    (low.pins.switch[(3 : SwitchNo)] ≠ true
        ∧ ((low.switchAt 3).closedHigh == true) = (low.switchAt 3).closed)
      ∧ (running.pins.switch[(3 : SwitchNo)] ≠ false
        ∧ ((running.switchAt 3).closedHigh == false) ≠ (running.switchAt 3).closed
        ∧ (running.switchAt 3).debounceAt ≠ none)
      ∧ (base.pins.switch[(3 : SwitchNo)] ≠ false
        ∧ ((base.switchAt 3).closedHigh == false) ≠ (base.switchAt 3).closed
        ∧ (base.switchAt 3).debounceAt = none ∧ 0 < (base.switchAt 3).closeTime) := by decide +kernel

theorem meets_MonitoredInputs_rail :
    let s := inMode .game .on
    let high := { s with pins := { s.pins with sense := s.pins.sense.set 0 true, railok := true } }
    s.powered = true ∧ s.control.rail = .on ∧ s.pins.sense[(0 : Chan)] = false
      ∧ (s.chan 0).phase = .offline
      ∧ high.pins.sense[(0 : Chan)] = true ∧ high.control.lateShorts = []
      ∧ high.pins.railok = true ∧ s.pins.railok = false ∧ s.control.lateRailLoss = false := by
  decide +kernel

theorem meets_DebounceExpiryIsAnEdge :
    let subscribed := fun n => (base.modSwitch 3 fun sw => { sw with debounceAt := some 0 }).modPort .p0
      fun ps => { ps with switches := ⟨0x8, List.replicate n ⟨3, true, 0, none, none⟩, 0⟩ }
    let s := subscribed 31
    let t := subscribed 32
    (s.powered = true ∧ (s.switchAt 3).debounceAt = some 0 ∧ 0 ≤ s.now
        ∧ ∀ x, (s.reflexAt x).concerned 3 (!(s.switchAt 3).closed) = false)
      ∧ ((s.port .p0).switches.set.getLsbD 3 = true ∧ (s.port .p0).switches.events.length < 32)
      ∧ ((t.port .p0).switches.set.getLsbD 3 = true ∧ ¬(t.port .p0).switches.events.length < 32)
      ∧ (s.port .p1).switches.set.getLsbD 3 = false := by decide +kernel

/-! ## Hypotheses met: lamps -/

theorem meets_BlinkAndPhaseEvents :
    let show1 : Lamp := { Lamp.default with showCell := some (aLight .blinkA) }
    let rules1 : Lamp := { show1 with rulesCell := some (aLight .blinkB) }
    let test1 : Lamp := { rules1 with testCell := some (aLight .steady) }
    let s := withLamp fun l => { l with showCell := some (aLight .blinkA) }
    Lamp.default.composite .game = none
      ∧ test1.composite .game = some (.rules, aLight .blinkB)
      ∧ (test1.testCell = some (aLight .steady) ∧ test1.rulesCell = some (aLight .blinkB))
      ∧ (rules1.testCell = none ∧ rules1.rulesCell = some (aLight .blinkB))
      ∧ (show1.testCell = none ∧ show1.rulesCell = none ∧ show1.showCell = some (aLight .blinkA))
      ∧ (s.powered = true ∧ (s.lamp 0).blinksAt s.control.mode 0 = true
        ∧ (s.lamp 1).blinksAt s.control.mode 0 = false) := by
  decide +kernel

theorem meets_LampExpiries :
    let s := withLamp fun l => { l with warm := true, coolAt := some 0 }
    let t := withLamp fun l => { l with warm := true, slotAt := some 0 }
    let u := { t with lampUnit := { t.lampUnit with staging := [5] } }
    (s.powered = true ∧ (s.lamp 0).coolAt = some 0 ∧ 0 ≤ s.now)
      ∧ ((t.lamp 0).slotAt = some 0 ∧ t.lampUnit.staging = [])
      ∧ ((u.lamp 0).slotAt = some 0 ∧ u.lampUnit.staging = [5]
        ∧ (u.modLamp 0 fun lamp => { lamp with slotAt := none }).lampUnit.slotsInUse < u.lampUnit.slotLimit)
      ∧ base.lampUnit.slotsInUse ≤ base.lampUnit.slotLimit := by decide +kernel

/-! ## Hypotheses met: heat -/

theorem meets_UpdatesDoNotChangeLaterHeat :
    let s := chan0 base .idle 0
    s.ready .p1 ∧ ((s.port .p0).inRange ∧ (s.port .p1).inRange ∧ (s.port .p2).inRange)
      ∧ (∀ c, (s.chan c).inRange)
      ∧ ((s.entriesOf .p0).length ≤ 16 ∧ (s.entriesOf .p1).length ≤ 16 ∧ (s.entriesOf .p2).length ≤ 16)
      ∧ (s.arbiter.reserve ≤ s.arbiter.budget ∧ s.arbiter.budget ≤ 255) ∧ s.control.alarm = none
      ∧ (100 ≤ s.lampUnit.inrushTime ∧ s.lampUnit.inrushTime ≤ 2000)
      ∧ (1 ≤ s.lampUnit.slotLimit ∧ s.lampUnit.slotLimit ≤ 16)
      ∧ (s.chan 0).heatAt ≤ s.now ∧ s.now ≤ 100
      ∧ (answerWriteProfile .p1 (byte 0) flipper s).status ≠ .ok := by decide +kernel

theorem meets_EffectiveFoldDuty :
    0 < (clampProfile flipper).cooling ∧ base.ready .p0
      ∧ (answerWriteProfile .p0 (byte 0) flipper base).status = .ok := by decide +kernel

theorem meets_ProfileThatCanFire :
    let small := { flipper with ceiling := 14999 }
    (base.ready .p0 ∧ configAllowed base.control.mode .p0 = true ∧ (base.chan 0).phase.busy = false
        ∧ (base.chan 0).heatNow base.now ≤ (clampProfile small).ceiling
        ∧ (clampProfile small).canFire = false)
      ∧ (clampProfile { flipper with ceiling := 15000 }).canFire = true := by decide +kernel

theorem meets_KickAndHoldStayUnderTheCeiling :
    let pr := clampProfile flipper
    (pr.inRange ∧ 585000 ≤ pr.ceiling ∧ pr.kickFits 585000 300 = true)
      ∧ (15000 ≤ pr.ceiling ∧ pr.foldTime 15000 = some 292500 ∧ pr.ceiling < 16777215)
      ∧ (Profile.default.inRange ∧ 0 ≤ Profile.default.ceiling ∧ Profile.default.foldTime 0 = none) := by
  decide +kernel

theorem meets_CoolingWaitIsTheLeast :
    (clampProfile flipper).inRange ∧ (clampProfile flipper).canFire = true
      ∧ 300 ≤ (clampProfile flipper).kickTime
      ∧ (clampProfile flipper).kickFits 585001 300 = false := by decide +kernel

/-! ## Hypotheses met: admission and orders -/

theorem meets_ExaminationRunsToItsEnd :
    let s := withBudget (chan0 (inMode .game .on) .idle 0) 8
    let t := { s with arbiter := { s.arbiter with list := [⟨0, .reflex 0, 8, 8, 0⟩] } }
    (∀ m ∈ t.arbiter.list, (t.chan m.channel).phase = .idle)
      ∧ (t.arbiter.list.map Member.channel).Nodup
      ∧ (∀ m ∈ t.arbiter.list, m.draw = (t.chan m.channel).profile.kickDraw)
      ∧ t.arbiter.units ≤ t.arbiter.budget := by decide +kernel

theorem meets_PlacesInTheQueues :
    (([⟨0, .reflex 0, 8, 8, 0⟩, ⟨1, .order .p0 1, 4, 8, 1⟩] : List Member).Pairwise
        fun a b => b.priority ≤ a.priority)
      ∧ ([⟨.reflex 0, 8, 3⟩, ⟨.order .p0 1, 4, 1⟩, ⟨.order .p0 2, 4, 2⟩] : List QueueMember).Pairwise
        fun a b => b.priority < a.priority ∨ (a.priority = b.priority ∧ a.arrival ≤ b.arrival) := by
  decide +kernel

theorem meets_RailCommands :
    (inMode .service .on).ready .p0 ∧ (inMode .service .on).control.mode = .service
      ∧ (inMode .game .on).control.mode ≠ .idle ∧ (inMode .game .on).control.mode ≠ .service
      ∧ base.control.mode = .idle ∧ base.arbiter.list = [] := by decide

/-- A port with its quota of pending entries. -/
def fullTable (s : State) : State :=
  withTable s ((List.range 16).map fun n =>
    Entry.taken .p0 { anOrder .pulse none with tag := byte (n + 16) } .queued)

/-- The branches of the tests of POST ORDER: each condition holds in a state where those before it fail. -/
theorem meets_PostOrderTestsAndRing :
    channelOf 24 = none ∧ orderKindOf 3 = none
      ∧ channelOf 0 = some 0 ∧ orderKindOf 0 = some .pulse ∧ orderKindOf 1 = some .train
      ∧ (base.chan 0).profile.posting.get .p0 = false
      ∧ ((postable.modChan 0 fun ch => { ch with profile := { ch.profile with enabled := false } }).chan
          0).profile.enabled = false
      ∧ (base.control.mode = .idle ∧ (inMode .tilt .on).control.mode = .tilt
        ∧ (inMode .service .on).control.mode = .service)
      ∧ ((postable.chan 0).profile.posting.get .p0 = true ∧ (postable.chan 0).profile.enabled = true
        ∧ postable.control.mode = .game)
      ∧ (withTable postable [anEntry .pulse .queued]).table.any
          (fun e => e.port == .p0 && e.order.tag == (1 : Byte)) = true
      ∧ 32 ≤ (List.replicate 32 (⟨anOrder .pulse none, none⟩ : Slot)).length
      ∧ ((fullTable postable).ready .p0 ∧ 16 ≤ ((fullTable postable).entriesOf .p0).length
        ∧ (fullTable postable).table.any (fun e => e.port == .p0 && e.order.tag == (1 : Byte)) = false
        ∧ ((fullTable postable).port .p0).ring.slots = []) := by decide +kernel

theorem meets_PostedPulseKicksAtOnce :
    let s := withBudget postable 8
    let allowed := fun (mode : Mode) (p : Port) =>
      (mode = .attract ∨ mode = .game) ∧ p ≠ .p2 ∨ mode = .tilt ∧ p = .p0 ∨ mode = .service ∧ p = .p2
    s.ready .p0 ∧ (s.chan 0).profile.posting.get .p0 = true ∧ (s.chan 0).profile.enabled = true
      ∧ allowed s.control.mode .p0
      ∧ (allowed .attract .p1 ∧ allowed .tilt .p0 ∧ allowed .service .p2)
      ∧ s.tagLive .p0 1 = false
      ∧ (s.port .p0).ring.slots = [] ∧ (s.entriesOf .p0).length < 16
      ∧ (s.chan 0).phase = .idle ∧ (s.chan 0).queue = [] ∧ s.arbiter.list = [] ∧ s.control.rail = .on
      ∧ s.arbiter.units + (s.chan 0).profile.kickDraw ≤ s.arbiter.budget - s.arbiter.reserve
      ∧ (s.chan 0).profile.kickFits ((s.chan 0).heatNow s.now)
          (ceilDiv ((s.chan 0).profile.kickTime * 16) 16) = true := by
  decide +kernel

theorem meets_EndOfAnOrder :
    let full := atPort fun ps =>
      { ps with completions := .replicate 32 ((anEntry .pulse .running).record .done 0) }
    { anOrder .pulse none with quiet := true }.quiet = true ∧ (anEntry .pulse .running).order.quiet = false
      ∧ ((base.port .p0).completions.length < 32 ∧ (base.port .p0).held = [])
      ∧ ¬((full.port .p0).completions.length < 32 ∧ (full.port .p0).held = []) := by decide +kernel

/-- A state with a chain tail on port 0. -/
def tailed (s : State) (tail : Tail) : State := s.modPort .p0 fun ps => { ps with tail := tail }

theorem meets_TakesAndChains_takes :
    let s := tailed (withBudget postable 8) ⟨some 9, .live⟩
    let bad := tailed (withBudget postable 8) ⟨none, .bad⟩
    let good := tailed (withBudget (chan0 (inMode .game .on) .kick 0) 8) ⟨none, .good⟩
    let r := postRecord 0 0 0
    (s.ready .p0 ∧ channelOf r.channel = some 0 ∧ orderKindOf r.kind = some .pulse
        ∧ (answerPostOrder .p0 { r with follow := true } s).status = .ok
        ∧ (s.port .p0).ring.slots = [] ∧ (s.entriesOf .p0).length < 16
        ∧ (s.port .p0).tail = ⟨some 9, .live⟩)
      ∧ ((answerPostOrder .p0 { r with follow := true } bad).status = .ok
        ∧ (bad.port .p0).tail.outcome = .bad ∧ (bad.chan 0).queue = [] ∧ bad.table = [])
      ∧ ((answerPostOrder .p0 { r with follow := true, due := some 5 } good).status = .ok
        ∧ (good.port .p0).tail.outcome = .good ∧ reached good.time 5 = false
        ∧ reached good.time 0x7FFFFFFF = false ∧ reached good.time 0x80000001 = true)
      ∧ ((answerPostOrder .p0 r good).status = .ok ∧ (good.chan 0).phase.busy = true) := by decide +kernel

/-- An entry and its one follower, which none follows, as the statement asks. -/
abbrev linked (s : State) (e f : Entry) : Prop :=
  e ∈ s.table ∧ f ∈ s.table ∧ f.port = e.port ∧ f.stage = .following e.order.tag
    ∧ (∀ a ∈ s.table, ∀ b ∈ s.table, a.port = b.port → a.order.tag = b.order.tag → a = b)
    ∧ (∀ g ∈ s.table, g.follows e.port e.order.tag = true → g = f)
    ∧ (∀ g ∈ s.table, g.follows e.port f.order.tag = false) ∧ (s.port e.port).ring.slots = []

/-- The follower of order 1, with a due time. -/
def follower (due : Option TableTime) : Entry :=
  Entry.taken .p0 { anOrder .pulse due with tag := 2, follow := true } (.following 1)

theorem meets_TakesAndChains_cancel :
    let s := withTable base [anEntry .pulse (.scheduled 9), follower none]
    let t := withTable base [anEntry .pulse (.following 9), follower none]
    (linked s (anEntry .pulse (.scheduled 9)) (follower none) ∧ s.ready .p0 ∧ (s.chan 0).queue = [])
      ∧ linked t (anEntry .pulse (.following 9)) (follower none) := by decide +kernel

theorem meets_TakesAndChains_kick :
    let pu := aPulse (.order .p0 1) .plain .none
    let s := withTable (pulsing .kick 0 pu) [anEntry .pulse .running, follower none]
    let t := withTable (pulsing .kick 0 pu) [anEntry .pulse .running, follower (some 500)]
    (linked s (anEntry .pulse .running) (follower none) ∧ s.powered = true ∧ (s.chan 0).phase = .kick
        ∧ (s.chan 0).pulse = some pu ∧ pu.start + pu.kickLength ≤ s.now ∧ s.arbiter.list = []
        ∧ (s.chan 0).queue = [] ∧ (s.chan 0).phase.busy = true)
      ∧ (linked t (anEntry .pulse .running) (follower (some 500)) ∧ reached t.time 500 = false) := by
  decide +kernel

theorem meets_DueTimeExpiryArrives :
    let e := anEntry .pulse (.scheduled 0)
    let s := withTable (chan0 base .kick 0) [e]
    let t := withTable base [e]
    let u := withTable (base.modChan 0 fun ch => { ch with phase := .faulted }) [e]
    (s.powered = true ∧ e ∈ s.table ∧ (∀ e' ∈ s.table, e'.port = e.port → e'.order.tag = e.order.tag → e' = e)
        ∧ 0 ≤ s.now ∧ (s.chan e.order.channel).phase.busy = true)
      ∧ ((t.chan 0).phase = .offline ∧ (t.chan 0).queue = [] ∧ (t.port .p0).ring.slots = []
        ∧ ∀ f ∈ t.table, f.follows .p0 1 = false)
      ∧ (u.chan 0).phase = .faulted := by decide +kernel

theorem meets_CancelOrderByPlace :
    let ringed := ringing base 1 none
    let running := fun kind => withTable (chan0 base .kick 0) [anEntry kind .running]
    let waiting := fun stage => withTable base [anEntry .pulse stage]
    (ringed.port .p0).ring.slots.any (fun slot => slot.order.tag == (1 : Byte)) = true
      ∧ (base.liveEntry .p0 1 = none ∧ (base.port .p0).ring.slots = [])
      ∧ (running .pulse).liveEntry .p0 1 = some (anEntry .pulse .running)
      ∧ (running .train).liveEntry .p0 1 = some (anEntry .train .running)
      ∧ (running .hold).liveEntry .p0 1 = some (anEntry .hold .running)
      ∧ ((running .hold).chan 0).phase = .kick
      ∧ (waiting (.following 2)).liveEntry .p0 1 = some (anEntry .pulse (.following 2))
      ∧ (waiting (.scheduled 9)).liveEntry .p0 1 = some (anEntry .pulse (.scheduled 9))
      ∧ ((waiting (.scheduled 9)).chan 0).queue = [] := by decide +kernel

theorem meets_CancelOrderByPlace_hold :
    let pu := aPulse (.order .p0 1) .hold .none
    let s := fun phase => withTable (pulsing phase 0 pu) [anEntry .hold .running]
    ∀ phase ∈ [Phase.hold, .fold],
      (s phase).ready .p0 ∧ (s phase).liveEntry .p0 1 = some (anEntry .hold .running)
        ∧ (s phase).entry .p0 1 = some (anEntry .hold .running)
        ∧ ((s phase).port .p0).ring.slots = [] ∧ (∀ f ∈ (s phase).table, f.follows .p0 1 = false)
        ∧ ((s phase).chan 0).phase = phase ∧ ((s phase).chan 0).pulse = some pu ∧ pu.owned = true
        ∧ 0 < pu.recycleLength ∧ ((s phase).chan 0).queue = [] ∧ (s phase).arbiter.list = [] := by
  decide +kernel

theorem meets_CancelOrderByPlace_queued :
    let two := fun s => withTable s [anEntry .pulse .queued, entryOf 2 .pulse .queued]
    let behind := two (waitingOn (pulsing .kick 0 (aPulse (.reflex 0) .plain .none)) [placeOf 2 0, placeOf 1 1]
      .channelWait)
    let cools := two (waitingOn postable [placeOf 1 0] (.heatWait 500))
    let joined := two (listing (waitingOn (withBudget (chan0 (inMode .game (.settling 2000)) .idle 0) 8)
      [placeOf 1 0, placeOf 2 1] .admission) [⟨0, .order .p0 1, 4, 8, 0⟩])
    let hot := heated joined 9301
    let fits := fun (s : State) => (s.chan 0).profile.kickFits ((s.chan 0).heatNow s.now)
      ((s.chan 0).profile.kickLength (s.kickShape (.order .p0 2)).fraction)
    (behind.ready .p0 ∧ behind.liveEntry .p0 1 = some (anEntry .pulse .queued)
        ∧ (behind.chan 0).queue = [placeOf 2 0] ++ placeOf 1 1 :: [] ∧ (placeOf 1 1).owner = .order .p0 1
        ∧ (∀ x ∈ [placeOf 2 0] ++ [], x.owner ≠ .order .p0 1) ∧ (behind.chan 0).phase ≠ .idle)
      ∧ (cools.ready .p0 ∧ (cools.chan 0).phase = .idle ∧ (cools.chan 0).queue = [] ++ placeOf 1 0 :: []
        ∧ cools.arbiter.list = [])
      ∧ (joined.ready .p0 ∧ (joined.chan 0).phase = .idle
        ∧ (joined.chan 0).queue = [] ++ placeOf 1 0 :: [placeOf 2 1] ∧ joined.control.rail ≠ .on
        ∧ joined.sizeOk 0 (placeOf 2 1).owner = true ∧ fits joined = true ∧ fits hot = false) := by
  decide +kernel

theorem meets_CompletionAndRingReads :
    let full := withTable (atPort fun ps =>
      { ps with
        completions := .replicate 32 ((anEntry .pulse .running).record .done 0)
        held := [(anEntry .pulse .running).record .done 0] }) [anEntry .pulse .doneHeld]
    (base.ready .p0 ∧ (base.port .p0).held = [])
      ∧ (full.ready .p0 ∧ (full.port .p0).ring.slots = [] ∧ (full.port .p0).held.length = 1
        ∧ (full.port .p0).completions.length = 32) := by decide +kernel

/-! ## Hypotheses met: pulses -/

theorem meets_PulseEnds :
    let kicked := reflexPulsing .kick .plain .none id
    let sampled := reflexPulsing .kick .plain .pending id
    let held := (reflexPulsing .hold .hold .none id).modChan 0 fun ch =>
      { ch with profile := { ch.profile with maxOn := 100 } }
    (kicked.powered = true ∧ (kicked.chan 0).pulse = some (aPulse (.reflex 0) .plain .none)
        ∧ (aPulse (.reflex 0) .plain .none).owned = true ∧ 0 < (aPulse (.reflex 0) .plain .none).recycleLength
        ∧ kicked.arbiter.list = [] ∧ (kicked.chan 0).phase = .kick
        ∧ (aPulse (.reflex 0) .plain .none).start + (aPulse (.reflex 0) .plain .none).kickLength ≤ kicked.now)
      ∧ ((sampled.chan 0).phase = .kick ∧ (aPulse (.reflex 0) .plain .pending).openCheck = .pending
        ∧ 0 + (sampled.chan 0).profile.senseDelay ≤ sampled.now ∧ sampled.pins.sense[(0 : Chan)] = false)
      ∧ ({ sampled with pins := { sampled.pins with sense := .replicate 24 true } } : State).pins.sense[(0 : Chan)]
          = true
      ∧ ((held.chan 0).phase = .hold ∧ 0 + (held.chan 0).profile.maxOn ≤ held.now) := by decide +kernel

theorem meets_PulseOrderIsDone :
    let pu := aPulse (.order .p0 1) .plain .none
    let e := anEntry .pulse .running
    let s := withTable (pulsing .kick 0 pu) [e]
    s.powered = true ∧ (s.chan 0).phase = .kick ∧ (s.chan 0).pulse = some pu ∧ (s.chan 0).queue = []
      ∧ pu.owner = .order e.port e.order.tag ∧ pu.owned = true ∧ pu.kind = .plain
      ∧ pu.openCheck ≠ .pending ∧ pu.start + pu.kickLength ≤ s.now ∧ 0 < pu.recycleLength
      ∧ s.arbiter.list = [] ∧ s.table = [e] ∧ e.order.channel = 0 ∧ e.order.kind = .pulse
      ∧ e.order.quiet = false ∧ e.stage = .running ∧ (s.port .p0).ring.slots = []
      ∧ (s.port .p0).completions.length < 32 ∧ (s.port .p0).held = [] := by decide +kernel

theorem meets_HoldAndFold :
    let pu := aPulse (.reflex 0) .hold .none
    let s := reflexPulsing .kick .hold .none id
    let u := s.modChan 0 fun ch => { ch with profile := { ch.profile with cooling := 255 } }
    let t := reflexPulsing .hold .hold .none fun pu => { pu with foldAt := some 100 }
    (s.powered = true ∧ (s.chan 0).pulse = some pu ∧ pu.owned = true ∧ s.arbiter.list = []
        ∧ (s.chan 0).phase = .kick ∧ pu.released = false ∧ 0 < (s.chan 0).profile.holdDuty
        ∧ pu.start + pu.kickLength ≤ s.now
        ∧ (s.chan 0).profile.foldTime ((s.chan 0).heatNow s.now) = some 9300 ∧ 0 < 9300)
      ∧ (u.chan 0).profile.foldTime ((u.chan 0).heatNow u.now) = none
      ∧ ((t.chan 0).phase = .hold ∧ (t.chan 0).pulse.bind (·.foldAt) = some 100 ∧ 100 ≤ t.now) := by
  decide +kernel

/-- Channel 0 at the recycle expiry of X0's pulse, with the rail ON and a queue. -/
def recycling (queue : List QueueMember) : State :=
  waitingOn (withBudget (moded (pulsing .recycle 0
    { aPulse (.reflex 0) .plain .none with recycleAt := some 100 }) .game .on) 8) queue .channelWait

/-- Whether X1's request on channel 0 passes the kick test. -/
def requestFits (s : State) : Bool :=
  (s.chan 0).profile.kickFits ((s.chan 0).heatNow s.now)
    ((s.chan 0).profile.kickLength (s.kickShape (.reflex 1)).fraction)

theorem meets_RecycleExpiryEnds :
    let s := recycling []
    let t := recycling [⟨.reflex 1, 8, 0⟩]
    let small := withBudget t 7
    let hot := heated t 9301
    (s.powered = true ∧ (s.chan 0).phase = .recycle
        ∧ (s.chan 0).pulse = some { aPulse (.reflex 0) .plain .none with recycleAt := some 100 }
        ∧ 100 ≤ s.now ∧ (s.chan 0).queue = [] ∧ s.control.rail = .on)
      ∧ ((small.chan 0).queue = [⟨.reflex 1, 8, 0⟩] ∧ (small.chan 0).front = .channelWait
        ∧ small.arbiter.budget < (small.chan 0).profile.kickDraw ∧ small.arbiter.list = [])
      ∧ (hot.sizeOk 0 (.reflex 1) = true ∧ requestFits hot = false)
      ∧ (t.arbiter.units + (t.chan 0).profile.kickDraw ≤ t.arbiter.limit (.reflex 1)
        ∧ requestFits t = true ∧ t.control.rail = .on ∧ t.arbiter.list = []) := by decide +kernel

theorem meets_RecycleExpiryEnds_fault :
    let pu :=
      { aPulse (.reflex 0) .plain .none with recycleAt := some 100, latched := some (.openCoil, 50) }
    let s := withTable (waitingOn (pulsing .recycle 0 pu) [⟨.reflex 1, 8, 0⟩, placeOf 1 1] .channelWait)
      [anEntry .pulse .queued]
    (s.powered = true ∧ (s.chan 0).phase = .recycle ∧ (s.chan 0).pulse = some pu ∧ 100 ≤ s.now)
      ∧ ((s.port .p0).ring.slots = [] ∧ (s.port .p1).ring.slots = [] ∧ (s.port .p2).ring.slots = [])
      ∧ s.liveEntry .p0 1 = some (anEntry .pulse .queued) ∧ (anEntry .pulse .queued).order.channel = 0
      ∧ s.table = [anEntry .pulse .queued] ∧ (s.table.map fun e => (e.port, e.order.tag)).Nodup := by
  decide +kernel

/-- A train of 3 steps after its first, in the recycle of its pulse. -/
def afterStep (s : State) (f : Entry → Entry) (g : Pulse → Pulse) : State :=
  let train := f { Entry.taken .p0 { anOrder .train none with count := 3, gap := 7 } .running with
    steps := 1, arrival := some 5 }
  let pu := g { aPulse (.order .p0 1) .plain .none with recycleAt := some 100 }
  withTable (at100 ((chan0 s .recycle 0).modChan 0 fun ch => { ch with pulse := some pu })) [train]

theorem meets_TrainStepsAtTheRecycleExpiry :
    let s := afterStep (withBudget (inMode .game .on) 8) id id
    let settling := waitingOn (afterStep (withBudget (inMode .game (.settling 2000)) 8) id id)
      [placeOf 2 4] .channelWait
    (s.powered = true ∧ (s.chan 0).phase = .recycle
        ∧ s.table.map (fun e => (e.stage, e.order.kind, e.order.channel)) = [(.running, .train, 0)]
        ∧ (s.entry .p0 1).isSome = true ∧ (s.chan 0).queue = [] ∧ (s.port .p0).ring.slots = []
        ∧ (∀ f ∈ s.table, f.follows .p0 1 = false)
        ∧ s.table.map (fun e => (e.lastCause, e.stopAfterStep, e.steps, e.order.count, e.arrival))
          = [(none, false, 1, 3, some 5)])
      ∧ (settling.control.rail ≠ .on
        ∧ (insertQueue ⟨.order .p0 1, 4, 5⟩ (settling.chan 0).queue).head? = some (placeOf 2 4)
        ∧ settling.sizeOk 0 (placeOf 2 4).owner = true)
      ∧ ((s.chan 0).front = .channelWait ∧ s.control.rail = .on ∧ s.arbiter.list = []
        ∧ s.arbiter.units + (s.chan 0).profile.kickDraw ≤ s.arbiter.budget - s.arbiter.reserve
        ∧ (s.chan 0).profile.kickFits ((s.chan 0).heatNow s.now) (s.chan 0).profile.kickTime = true) := by
  decide +kernel

theorem meets_TrainStepsAtTheRecycleExpiry_ends :
    let faulted := afterStep base id fun pu => { pu with latched := some (.openCoil, 50) }
    let late := afterStep base (fun e => { e with lastCause := some .overtime }) id
    let stopped := afterStep base (fun e => { e with stopAfterStep := true }) id
    let last := afterStep base (fun e => { e with steps := 3 }) id
    (faulted.chan 0).pulse.bind (·.latched) = some (.openCoil, 50)
      ∧ (late.chan 0).pulse.bind (·.latched) = none
      ∧ late.table.map (·.lastCause) = [some .overtime] ∧ stopped.table.map (·.stopAfterStep) = [true]
      ∧ last.table.map (fun e => (e.steps, e.order.count)) = [(3, 3)] := by decide +kernel

theorem meets_CoolingExpiryTestsAgain :
    let s := withBudget (cooling (inMode .game .on) 9300) 8
    let hot := withBudget (cooling (inMode .game .on) 9301) 8
    let tight := withBudget (cooling (inMode .game .on) 9300) 7
    let ok := fun (s : State) =>
      (s.chan 0).profile.kickFits ((s.chan 0).heatNow s.now)
        ((s.chan 0).profile.kickLength 16)
    (s.powered = true ∧ (s.chan 0).phase = .idle ∧ (s.chan 0).queue = [⟨.reflex 0, 8, 0⟩]
        ∧ (s.chan 0).front = .heatWait 100 ∧ 100 ≤ s.now ∧ s.arbiter.list = [])
      ∧ ok hot = false
      ∧ (ok tight = true ∧ tight.arbiter.budget < tight.arbiter.units + (tight.chan 0).profile.kickDraw)
      ∧ (ok s = true ∧ s.control.rail = .on
        ∧ s.arbiter.units + (s.chan 0).profile.kickDraw ≤ s.arbiter.budget) := by decide +kernel

/-! ## Hypotheses met: modes and alarms -/

theorem meets_AlarmsAndTheRail :
    let s := (inMode .game .on).modChan 0 fun ch => { ch with shortAt := some 0 }
    let t := { inMode .game .on with control := { (inMode .game .on).control with railLossAt := some 0 } }
    let u := inMode .game (.settling 0)
    let v := { u with pins := { u.pins with railok := true } }
    (s.powered = true ∧ s.control.mode ≠ .alarm ∧ (s.chan 0).shortAt = some 0 ∧ 0 ≤ s.now)
      ∧ t.control.railLossAt = some 0
      ∧ (u.control.rail = .settling 0 ∧ u.pins.railok = false)
      ∧ (v.powered = true ∧ v.control.rail = .settling 0 ∧ v.pins.railok = true ∧ v.arbiter.list = []
        ∧ ∀ c : Chan, v.pins.sense[c] = false) := by decide +kernel

theorem meets_ModeAndAlarmCommands :
    let s := inMode .alarm .off
    let t := { s with pins := { s.pins with sense := s.pins.sense.set 23 true } }
    (modeOf 6 = none ∧ modeOf 5 = some .alarm ∧ modeOf 4 = some .service ∧ modeOf 3 = some .tilt
        ∧ modeOf 2 = some .game ∧ modeOf 0 = some .idle)
      ∧ (base.ready .p0 ∧ base.control.mode = .idle ∧ base.pins.resetn = true)
      ∧ (inMode .game .on).control.mode = .game
      ∧ (s.ready .p0 ∧ s.control.mode = .alarm ∧ ∀ c : Chan, s.pins.sense[c] = false)
      ∧ (∃ c : Chan, t.pins.sense[c] = true) ∧ base.control.mode ≠ .alarm := by decide +kernel

/-- SET MODE to IDLE from P0 enters IDLE. -/
theorem enters_idle (s : State) (h : s.ready .p0) (hm : mayEnter .p0 .idle s.control.mode = true)
    (hr : s.pins.resetn = true) : s.enters (.setMode .p0 0) .idle :=
  .inl ⟨.p0, 0, rfl, h, by decide, by decide, hm, hr⟩

/-- P0 with a running order on channel 0, one in its queue, one that follows, and a cancelled one in its ring. -/
def working : State :=
  ringing (withTable (waitingOn (moded (pulsing .kick 0 (aPulse (.order .p0 1) .plain .none)) .game .on)
    [placeOf 2 1] .channelWait)
    [anEntry .pulse .running, entryOf 2 .pulse .queued, entryOf 3 .pulse (.following 2)]) 4
    (some .cancelled)

theorem meets_ModeChangeEndsOrders :
    working.enters (.setMode .p0 0) .idle ∧ working.coherent
      ∧ (∃ t, exec (.setMode .p0 0) working = .next t)
      ∧ ¬((Mode.idle = .attract ∨ Mode.idle = .game) ∧ Port.p0 ≠ .p2 ∨ Mode.idle = .tilt ∧ Port.p0 = .p0
        ∨ Mode.idle = .service ∧ Port.p0 = .p2)
      ∧ (working.entriesOf .p0).filter Entry.live
        = [anEntry .pulse .running, entryOf 2 .pulse .queued, entryOf 3 .pulse (.following 2)]
      ∧ (((working.entriesOf .p0).filter Entry.live).map fun e => e.order.tag).Nodup
      ∧ ((working.chan 0).phase.isLive = true
        ∧ (working.chan 0).pulse = some (aPulse (.order .p0 1) .plain .none))
      ∧ (working.chan 0).runs (.order .p0 2) = false ∧ working.arbiter.list = [] :=
  ⟨enters_idle _ (by decide +kernel) (by decide +kernel) (by decide +kernel),
    coherent_of_fields _ (by decide +kernel), ⟨_, rfl⟩, by decide +kernel⟩

/-- X0 on channel 0 in a state, with the table in GAME. -/
def flipping (s : State) (action : Action) (state : ReflexState) : State :=
  (moded s .game .on).modReflex 0 fun r =>
    { r with
      switch := 3, channel := 0, action := action, enabled := true, inAttract := true, inGame := true
      state := state }

/-- X0's request at the front of channel 0, in the admission list of a rail that settles. -/
def asking : State :=
  listing (waitingOn (chan0 (moded (flipping base .flip .waiting) .game (.settling 2000)) .idle 0)
    [⟨.reflex 0, 8, 0⟩] .admission) [⟨0, .reflex 0, 8, 8, 0⟩]

theorem meets_ModeChangeAndReflexes :
    let armed := flipping base .flip .armed
    let spent := flipping base .flip .spent
    (armed.enters (.setMode .p0 0) .idle ∧ armed.coherent ∧ ∃ t, exec (.setMode .p0 0) armed = .next t)
      ∧ ((∀ c, (armed.chan c).queue = []) ∧ armed.arbiter.list = [] ∧ (armed.reflexAt 0).state = .armed)
      ∧ (spent.reflexAt 0).state = .spent
      ∧ asking.enters (.setMode .p0 0) .idle ∧ asking.coherent
      ∧ (asking.reflexAt 0).state = .waiting ∧ channelOf (asking.reflexAt 0).channel = some 0
      ∧ (∀ d, d ≠ 0 → (asking.chan d).queue = [])
      ∧ (∀ m ∈ asking.arbiter.list,
        m.channel = 0 ∧ (asking.chan 0).isTestingFront (.reflex 0) = true)
      ∧ ((asking.port .p0).ring.slots = [] ∧ (asking.port .p1).ring.slots = []
        ∧ (asking.port .p2).ring.slots = []) :=
  ⟨⟨enters_idle _ (by decide +kernel) (by decide +kernel) (by decide +kernel),
    coherent_of_fields _ (by decide +kernel), ⟨_, rfl⟩⟩, by decide +kernel, by decide +kernel,
    enters_idle _ (by decide +kernel) (by decide +kernel) (by decide +kernel),
    coherent_of_fields _ (by decide +kernel), by decide +kernel⟩

theorem meets_ModeChangeAndReflexes_active :
    let pu := aPulse (.reflex 0) .hold .none
    let s := fun action => flipping (pulsing .hold 0 pu) action .active
    let t := flipping (pulsing .recycle 0 pu) .flip .active
    ((s .flip).enters (.setMode .p0 0) .idle ∧ (s .flip).coherent)
      ∧ (s .fire).enters (.setMode .p0 1) .attract
      ∧ (t.enters (.setMode .p0 0) .idle ∧ t.coherent)
      ∧ (((s .flip).reflexAt 0).state = .active ∧ ((s .flip).chan 0).pulse = some pu ∧ pu.owned = true
        ∧ (∀ c, ((s .flip).chan c).queue = []) ∧ (s .flip).arbiter.list = []
        ∧ ((s .flip).chan 0).phase.isLive = true ∧ 0 < pu.recycleLength)
      ∧ (s .fire).control.rail = .on
      ∧ ((t.chan 0).phase = .recycle ∧ (t.chan 0).pulse = some pu ∧ (t.reflexAt 0).state = .active) :=
  ⟨⟨enters_idle _ (by decide +kernel) (by decide +kernel) (by decide +kernel),
      coherent_of_fields _ (by decide +kernel)⟩,
    .inl ⟨.p0, 1, rfl, by decide +kernel⟩,
    ⟨enters_idle _ (by decide +kernel) (by decide +kernel) (by decide +kernel),
      coherent_of_fields _ (by decide +kernel)⟩, by decide +kernel⟩

theorem meets_enters_alarm :
    let s := inMode .game (.settling 0)
    s.enters .settleExpiry .alarm
      ∧ State.enters (inMode .alarm .off) (.clearAlarm .p2) .idle :=
  ⟨.inr (.inr ⟨by decide, by decide, rfl, .inr (.inr ⟨0, rfl, by decide⟩)⟩),
    .inr (.inl ⟨.p2, rfl, by decide +kernel⟩)⟩

/-! ## Hypotheses met: channels, switches, reflexes -/

theorem meets_WriteProfileTests :
    24 ≤ (24 : Byte).toNat ∧ (23 : Byte) = byte ((23 : Chan).val)
      ∧ base.control.mode = .idle ∧ (inMode .game .on).control.mode = .game
      ∧ ((chan0 base .kick 0).chan 0).phase.hasPulse = true
      ∧ (clampProfile flipper).ceiling
          < ((base.modChan 0 fun ch => { ch with heat := 600001 }).chan 0).heatNow 0
      ∧ (clampProfile { flipper with ceiling := 14999 }).canFire = false
      ∧ (clampProfile flipper).canFire = true ∧ (base.chan 0).phase = .offline
      ∧ 1 ≤ flipper.kickTime.toNat ∧ flipper.kickTime.toNat ≤ 1000 ∧ flipper.kickDraw.toNat ≤ 64
      ∧ flipper.holdDuty.toNat ≤ 16 ∧ flipper.foldDuty.toNat ≤ 16 ∧ flipper.heatFactor.toNat ≤ 16
      ∧ 1 ≤ flipper.cooling.toNat ∧ 1 ≤ flipper.ceiling.toNat ∧ flipper.recycle.toNat ≤ 10000
      ∧ flipper.maxOn.toNat ≤ 6000000 := by decide +kernel

/-- A state in which a WRITE PROFILE of the flipper's record to channel 0 passes its tests. -/
abbrev writable (s : State) : Prop :=
  s.ready .p0 ∧ s.control.mode = .attract ∧ (s.chan 0).phase.hasPulse = false
    ∧ (s.chan 0).heatNow s.now ≤ (clampProfile flipper).ceiling ∧ (clampProfile flipper).canFire = true

theorem meets_WriteProfileTests_accepted :
    let s := chan0 (inMode .attract .on) .idle 0
    let f := chan0 (inMode .attract .on) .faulted 0
    let queued := fun rail heat => heated (waitingOn (withBudget (chan0 (inMode .attract rail) .idle 0) 32)
      [⟨.reflex 1, 8, 0⟩] .channelWait) heat
    let full := (clampProfile flipper).kickLength 16
    (writable s ∧ (s.chan 0).queue = [] ∧ s.arbiter.list = [])
      ∧ (writable f ∧ (f.chan 0).phase = .faulted)
      ∧ (writable (queued .on 590000)
        ∧ (clampProfile flipper).kickDraw ≤ (queued .on 590000).arbiter.limit (.reflex 1)
        ∧ (clampProfile flipper).kickFits 590000 full = false)
      ∧ (writable (queued (.settling 2000) 0) ∧ (queued (.settling 2000) 0).control.rail ≠ .on
        ∧ (clampProfile flipper).kickFits 0 full = true)
      ∧ (writable (queued .on 0) ∧ (queued .on 0).arbiter.list = []
        ∧ (queued .on 0).arbiter.units + (clampProfile flipper).kickDraw
          ≤ (queued .on 0).arbiter.limit (.reflex 1)) := by decide +kernel

theorem meets_WriteProfileTests_disabled :
    let s := withTable (waitingOn (chan0 (inMode .attract .on) .idle 0)
      [⟨.reflex 1, 8, 0⟩, placeOf 1 1] .channelWait) [anEntry .pulse .queued]
    writable s ∧ { flipper with enabled := false }.enabled = false
      ∧ (s.chan 0).queue = [⟨.reflex 1, 8, 0⟩, placeOf 1 1]
      ∧ ((s.port .p0).ring.slots = [] ∧ (s.port .p1).ring.slots = [] ∧ (s.port .p2).ring.slots = [])
      ∧ s.liveEntry .p0 1 = some (anEntry .pulse .queued)
      ∧ s.table.map (·.stage) = [.queued]
      ∧ (s.arbiter.list.filter fun m => m.channel ≠ 0) = []
      ∧ (s.table.map fun e => (e.port, e.order.tag)).Nodup := by decide +kernel

theorem meets_ChannelReadAndClear :
    24 ≤ (24 : Byte).toNat ∧ (0 : Byte) = byte ((0 : Chan).val) ∧ (base.chan 0).phase ≠ .faulted
      ∧ ((base.modChan 0 fun ch => { ch with phase := .faulted }).chan 0).phase = .faulted := by decide +kernel

theorem meets_SwitchCommands :
    let busy := reflex0 base .spent
    32 ≤ (32 : Byte).toNat ∧ (31 : Byte) = byte ((31 : SwitchNo).val)
      ∧ (base.control.mode = .idle ∧ (inMode .game .on).control.mode = .game)
      ∧ ((busy.switchAt 3).closedHigh ≠ true ∧ (busy.reflexAt 0).switch = 3
        ∧ (busy.reflexAt 0).state = .spent)
      ∧ (base.switchAt 3).closedHigh = false
      ∧ ∀ x, (base.reflexAt x).switch = 3 →
          (base.reflexAt x).state = .disarmed ∨ (base.reflexAt x).state = .armed := by decide +kernel

theorem meets_ReflexCommands :
    let r : ReflexRecord := ⟨31, false, 1, 23, true, true, true⟩
    16 ≤ (16 : Byte).toNat ∧ (15 : Byte) = byte ((15 : ReflexNo).val)
      ∧ (32 ≤ (32 : Byte).toNat ∧ actionOf 3 = none ∧ 24 ≤ (24 : Byte).toNat)
      ∧ (inMode .game .on).control.mode = .game
      ∧ ((reflex0 base .waiting).reflexAt 0).state = .waiting
      ∧ (switchOf r.switch = some 31 ∧ actionOf r.action = some .flip ∧ r.channel.toNat < 24
        ∧ (base.reflexAt 15).state = .disarmed) := by decide +kernel

theorem meets_ReflexKicksAtTheEdge :
    let s := reflex0 (withBudget (chan0 (inMode .game .on) .idle 0) 8) .armed
    let t := (s.modSwitch 3 fun sw => { sw with debounceAt := some 0 }).modPort .p0 fun ps =>
      { ps with switches := { ps.switches with set := 0x8 } }
    let u := t.modReflex 0 fun r => { r with action := .flip }
    t.powered = true ∧ (t.switchAt 3).closed = false ∧ (t.switchAt 3).debounceAt = some 0 ∧ 0 ≤ t.now
      ∧ (t.reflexAt 0).state = .armed ∧ (t.reflexAt 0).action = .fire ∧ (u.reflexAt 0).action = .flip
      ∧ (t.reflexAt 0).switch = 3
      ∧ (t.reflexAt 0).openEdge = false ∧ channelOf (t.reflexAt 0).channel = some 0
      ∧ (∀ y, y ≠ 0 → (t.reflexAt y).concerned 3 true = false)
      ∧ (t.chan 0).phase = .idle ∧ (t.chan 0).queue = [] ∧ t.arbiter.list = [] ∧ t.control.rail = .on
      ∧ t.arbiter.units + (t.chan 0).profile.kickDraw ≤ t.arbiter.budget
      ∧ (t.chan 0).profile.kickFits ((t.chan 0).heatNow t.now) ((t.chan 0).profile.kickLength 16) = true
      ∧ (t.port .p0).switches.set.getLsbD 3 = true := by decide +kernel

/-- A due debounce of switch 3, from a debounced state. -/
def edging (s : State) (closed : Bool) : State :=
  s.modSwitch 3 fun sw => { sw with closed := closed, debounceAt := some 0 }

theorem meets_FlipAndTiltEdges_flip :
    let pu := aPulse (.reflex 0) .hold .none
    let spent := edging (flipping base .flip .spent) true
    let after := edging (flipping (pulsing .recycle 0 pu) .flip .active) true
    let live := edging (flipping (pulsing .hold 0 pu) .flip .active) true
    let busy := edging (flipping (waitingOn (pulsing .kick 0 (aPulse (.reflex 1) .plain .none))
      [⟨.reflex 0, 8, 0⟩] .channelWait) .flip .waiting) true
    let front := edging asking true
    (spent.powered = true ∧ (spent.switchAt 3).debounceAt = some 0 ∧ (spent.reflexAt 0).switch = 3
        ∧ (∀ y, y ≠ 0 → (spent.reflexAt y).switch ≠ 3) ∧ (spent.switchAt 3).closed = true
        ∧ (spent.reflexAt 0).action = .flip ∧ (spent.reflexAt 0).state = .spent)
      ∧ (channelOf (after.reflexAt 0).channel = some 0 ∧ (after.reflexAt 0).state = .active
        ∧ (after.chan 0).phase = .recycle)
      ∧ ((live.chan 0).phase.isLive = true ∧ (live.chan 0).pulse = some pu ∧ live.arbiter.list = [])
      ∧ ((busy.reflexAt 0).state = .waiting ∧ (busy.chan 0).phase.busy = true)
      ∧ ((front.reflexAt 0).state = .waiting ∧ (front.chan 0).phase = .idle
        ∧ (front.chan 0).queue = [⟨.reflex 0, 8, 0⟩] ∧ front.control.rail ≠ .on) := by decide +kernel

theorem meets_FlipAndTiltEdges_trigger :
    let waiting := edging (flipping base .fire .waiting) false
    let tilt := edging (flipping base .tilt .armed) false
    let attract := { tilt with control := { tilt.control with mode := .attract } }
    (waiting.powered = true ∧ (waiting.switchAt 3).debounceAt = some 0 ∧ (waiting.reflexAt 0).switch = 3
        ∧ (∀ y, y ≠ 0 → (waiting.reflexAt y).switch ≠ 3) ∧ (waiting.reflexAt 0).openEdge = false
        ∧ (waiting.switchAt 3).closed = false ∧ (waiting.reflexAt 0).state = .waiting
        ∧ (waiting.reflexAt 0).action ≠ .flip)
      ∧ ((tilt.reflexAt 0).action = .tilt ∧ (tilt.reflexAt 0).state = .armed ∧ tilt.control.mode = .game
        ∧ (∀ c, (tilt.chan c).queue = []) ∧ tilt.arbiter.list = [])
      ∧ attract.control.mode ≠ .game := by decide +kernel

/-! ## Hypotheses met: lamp commands and attention -/

theorem meets_WriteLampsWritesTheLayer :
    let w : List CellWrite := [⟨39, 1, 2, 15, 3⟩, ⟨39, 0, 0, 0, 0⟩]
    cellWritesOk w = true ∧ cellsOf w = some [(39, some ⟨15, .blinkB, 3⟩), (39, none)]
      ∧ (∃ w ∈ [(⟨40, 0, 0, 0, 0⟩ : CellWrite)], 40 ≤ w.lamp.toNat)
      ∧ (∀ w ∈ [(⟨39, 2, 0, 0, 0⟩ : CellWrite)], w.lamp.toNat < 40)
      ∧ ∃ w ∈ [(⟨39, 2, 0, 0, 0⟩ : CellWrite)], cellOf w = none := by decide +kernel

theorem meets_LampsStartAndStage :
    let w : List CellWrite := [⟨0, 1, 0, 9, 0⟩, ⟨39, 1, 1, 15, 3⟩, ⟨0, 0, 0, 0, 0⟩]
    let staged := { base with lampUnit := { base.lampUnit with staging := [5] } }
    base.ready .p0 ∧ base.powered = true ∧ cellWritesOk w = true
      ∧ cellsOf w = some [(0, some ⟨9, .steady, 0⟩), (39, some ⟨15, .blinkA, 3⟩), (0, none)]
      ∧ (5 ∈ staged.lampUnit.staging ∧ 6 ∉ staged.lampUnit.staging) := by decide +kernel

theorem meets_LampConfigAndRead :
    let staged := { base with
      lampUnit :=
        { base.lampUnit with
          staging := [5]
          slotLimit := 1
          lamps := base.lampUnit.lamps.set 0 { Lamp.default with slotAt := some 400, warm := true } } }
    base.ready .p0 ∧ base.lampUnit.staging = [] ∧ 40 ≤ (40 : Byte).toNat
      ∧ (39 : Byte) = byte ((39 : LampNo).val)
      ∧ (staged.ready .p0 ∧ staged.lampUnit.staging = [5]
        ∧ min 16 (max 1 (0 : Byte).toNat) ≤ staged.lampUnit.slotsInUse) := by decide +kernel

theorem meets_AttentionCommands :
    let ps := { (base.port .p0) with
      attention :=
        { Attention.default with priorities := .replicate 7 1, modeEdge := true } }
    chosenSource .idle ps = some 3 ∧ chosenSource .idle (base.port .p0) = none := by decide +kernel

/-! ## Hypotheses met: what every command keeps -/

/-- A state with a live pulse that the invariants hold of: its draw is in the units in use. -/
def running : State :=
  let s := pulsing .kick 0 (aPulse (.reflex 0) .plain .none)
  { s with arbiter := { s.arbiter with budget := 8, units := 8 } }

theorem meets_UnitsAreTheSumOfTheDraws :
    running.arbiter.units = (running.channels.toList.map Channel.draw).sum
      ∧ ∃ t, exec (.kickEndExpiry 0) running = .next t := ⟨by decide +kernel, ⟨_, rfl⟩⟩

theorem meets_RangesAreKept :
    ((running.port .p0).inRange ∧ (running.port .p1).inRange ∧ (running.port .p2).inRange)
      ∧ (∀ c, (running.chan c).inRange)
      ∧ ((running.entriesOf .p0).length ≤ 16 ∧ (running.entriesOf .p1).length ≤ 16
        ∧ (running.entriesOf .p2).length ≤ 16)
      ∧ (running.arbiter.reserve ≤ running.arbiter.budget ∧ running.arbiter.budget ≤ 255)
      ∧ running.control.alarm = none := by decide +kernel

theorem meets_RecordsStandWithTheirStates :
    running.coherent ∧ (running.chan 0).phase.isLive = true ∧ ∃ t, exec (.kickEndExpiry 0) running = .next t :=
  ⟨coherent_of_fields _ (by decide +kernel), by decide +kernel, ⟨_, rfl⟩⟩

theorem meets_NoLivePulseWithoutTheRail :
    let s := moded running .game .on
    s.railRight ∧ (s.chan 0).phase = .kick ∧ ∃ t, exec (.setMode .p0 0) s = .next t :=
  ⟨⟨by decide +kernel, by decide +kernel⟩, by decide +kernel, ⟨_, rfl⟩⟩

theorem meets_AttentionLinesAreRight :
    (base.port .p0).attention.line = lineAsserted base.control.mode (base.port .p0)
      ∧ (base.port .p1).attention.line = lineAsserted base.control.mode (base.port .p1)
      ∧ (base.port .p2).attention.line = lineAsserted base.control.mode (base.port .p2)
      ∧ { (base.port .p0) with
          attention := { Attention.default with threshold := 7 } }.inRange := by decide +kernel

theorem meets_ShowPortKeepsProfilesRailSwitchesAndMode :
    (base.link .p1).awaiting ≠ some .table
      ∧ ∃ t, exec (Command.row (.writeRail 1 1) .p1) base = .next t := ⟨by decide, ⟨_, rfl⟩⟩

end Sys2Proof.Tests
end

/-!
SUPPORT. What each row of the table is: a command of a port, an event decided by the clock, or one of the few
rows of the links, the pins, the supply and the tick. And what a command does on a port that is ready.
-/

namespace Sys2Proof.Machine

/-! ## Writes of a port or a channel -/

/-- Two changes of a port's record that agree on the record held are one. -/
theorem State.modPort_congr {s : State} {p : Port} {f g : PortState → PortState}
    (h : f (s.port p) = g (s.port p)) : s.modPort p f = s.modPort p g := by
  unfold State.port at h
  simp only [State.modPort, h]

theorem State.modChan_of_eq {s : State} {c : Chan} {f : Channel → Channel} (h : f (s.chan c) = s.chan c) :
    s.modChan c f = s := by
  have hv : s.channels.set c (f s.channels[c]) = s.channels := by
    rw [show f s.channels[c] = s.channels[c] from h]
    exact Vector.set_getElem_self c.isLt
  simp only [State.modChan, hv]

/-! ## The rows -/

/-- The rows that give the clock another value: its advance and the supply. -/
def movesClock : Instr → Bool
  | .tableClockAdvance => true
  | .powerOn => true
  | .supplyFall => true
  | _ => false

theorem ne_of_not_movesClock {i : Instr} (h : movesClock i = false) :
    i ≠ .tableClockAdvance ∧ ¬(i = .powerOn ∨ i = .supplyFall) := by
  refine ⟨?_, ?_⟩
  · rintro rfl; cases h
  · rintro (rfl | rfl) <;> cases h

/-- The kinds of row: the act of every row of one kind is given by one definition of the model. -/
inductive RowKind : Instr → Prop
  | command (c : Command) (p : Port) : RowKind (c.row p)
  | due (i : Instr) (e : Due) (hi : movesClock i = false) (h : ∀ s, exec i s = event e.take s) : RowKind i
  | advance : RowKind .tableClockAdvance
  | powerOn : RowKind .powerOn
  | supplyFall : RowKind .supplyFall
  | resetnFall : RowKind .resetnFall
  | resetnRise : RowKind .resetnRise
  | receiveByte (p : Port) (b : Byte) : RowKind (.receiveByte p b)
  | replyEnd (p : Port) : RowKind (.replyEnd p)
  | switchRawChange (n : SwitchNo) (high : Bool) : RowKind (.switchRawChange n high)
  | senseChange (c : Chan) (high : Bool) : RowKind (.senseChange c high)
  | railokChange (high : Bool) : RowKind (.railokChange high)

theorem rowKind_all (i : Instr) : RowKind i := by
  cases i with
  | powerOn => exact .powerOn
  | supplyFall => exact .supplyFall
  | resetnFall => exact .resetnFall
  | resetnRise => exact .resetnRise
  | tableClockAdvance => exact .advance
  | receiveByte p b => exact .receiveByte p b
  | replyEnd p => exact .replyEnd p
  | switchRawChange n high => exact .switchRawChange n high
  | senseChange c high => exact .senseChange c high
  | railokChange high => exact .railokChange high
  | gapExpiry p => exact .due _ (.gap p) rfl fun _ => rfl
  | debounceExpiry n => exact .due _ (.debounce n) rfl fun _ => rfl
  | comparatorMatch p => exact .due _ (.comparator p) rfl fun _ => rfl
  | comparatorLapse p => exact .due _ (.lapse p) rfl fun _ => rfl
  | dueTimeExpiry p tag => exact .due _ (.dueTime p tag) rfl fun _ => rfl
  | kickEndExpiry c => exact .due _ (.kickEnd c) rfl fun _ => rfl
  | senseDelayExpiry c => exact .due _ (.senseDelay c) rfl fun _ => rfl
  | maxOnExpiry c => exact .due _ (.maxOn c) rfl fun _ => rfl
  | foldExpiry c => exact .due _ (.fold c) rfl fun _ => rfl
  | recycleExpiry c => exact .due _ (.recycle c) rfl fun _ => rfl
  | coolingExpiry c => exact .due _ (.cooling c) rfl fun _ => rfl
  | shortCheckExpiry c => exact .due _ (.shortCheck c) rfl fun _ => rfl
  | settleExpiry => exact .due _ .settle rfl fun _ => rfl
  | railLossExpiry => exact .due _ .railLoss rfl fun _ => rfl
  | lampPhaseEvent r => exact .due _ (.lampPhase r) rfl fun _ => rfl
  | coolDownExpiry l => exact .due _ (.coolDown l) rfl fun _ => rfl
  | inrushExpiry l => exact .due _ (.inrush l) rfl fun _ => rfl
  | portReset p => exact .command .portReset p
  | tableReset p => exact .command .tableReset p
  | readClock p => exact .command .readClock p
  | setAlarmTime p time => exact .command (.setAlarmTime time) p
  | disarm p => exact .command .disarm p
  | postOrder p o => exact .command (.postOrder o) p
  | cancelOrder p tag => exact .command (.cancelOrder tag) p
  | readCompletions p => exact .command .readCompletions p
  | readRing p => exact .command .readRing p
  | writeProfile p c r => exact .command (.writeProfile c r) p
  | readProfile p c => exact .command (.readProfile c) p
  | readChannel p c => exact .command (.readChannel c) p
  | clearFault p c => exact .command (.clearFault c) p
  | writeRail p b v => exact .command (.writeRail b v) p
  | readRail p => exact .command .readRail p
  | setMode p m => exact .command (.setMode m) p
  | clearAlarm p => exact .command .clearAlarm p
  | readAlarm p => exact .command .readAlarm p
  | writeSwitchConfig p n c a b => exact .command (.writeSwitchConfig n c a b) p
  | readSwitches p => exact .command .readSwitches p
  | subscribe p v => exact .command (.subscribe v) p
  | readSwitchEvents p => exact .command .readSwitchEvents p
  | writeReflex p x r => exact .command (.writeReflex x r) p
  | readReflex p x => exact .command (.readReflex x) p
  | writeLamps p w => exact .command (.writeLamps w) p
  | writeLampConfig p f t l => exact .command (.writeLampConfig f t l) p
  | readLamps p l => exact .command (.readLamps l) p
  | writeAttention p v t m => exact .command (.writeAttention v t m) p
  | takeEvent p => exact .command .takeEvent p

theorem exec_row (c : Command) (p : Port) (s : State) :
    exec (c.row p) s = event (commandRow p (c.answer p)) s := by
  cases c <;> rfl

theorem movesClock_row (c : Command) (p : Port) : movesClock (c.row p) = false := by
  cases c <;> rfl

theorem event_of_powered {s : State} (h : s.powered = true) (act : State → State) :
    event act s = .next (act s).decideLines := by
  rw [event, if_pos h]

/-! ## A command on a port that is ready -/

/-- With no reply being sent there is none to end (R165). -/
theorem State.finishReplies_of_ready {s : State} {p : Port} (h : s.ready p) : s.finishReplies p = s := by
  have h1 : s.takeReplyEnd p = s := by unfold State.takeReplyEnd; rw [h.2]
  rw [State.finishReplies, h1, h1]

/-- A command on a ready port: its block's answer is sent from the state the block leaves. -/
theorem exec_row_of_ready {s : State} {p : Port} (h : s.ready p) (c : Command) :
    exec (c.row p) s = .next ((c.answer p s).state.answered p (c.answer p s).status (c.answer p s).body) := by
  rw [exec_row, event_of_powered h.1, commandRow, State.finishReplies_of_ready h]
  rfl

end Sys2Proof.Machine

/-!
The steps of the part and its table clock.
-/

namespace Sys2Proof.Machine

/-- Settles O1: `step` looks at the queue alone. -/
theorem stepRunsFrontOfQueue : Obligations.StepRunsFrontOfQueue :=
  ⟨fun _ _ _ => rfl, fun s h => by rw [step, h]⟩

/-! ## What moves the clock -/

/-- No write of an event but the tick reaches the clock. -/
theorem kept_now (n : Nat) : Kept fun s => s.now = n where
  ports _ _ _ h := h
  table _ _ _ h := h
  coil _ _ _ _ _ _ _ h := h
  note _ _ _ _ _ h := h
  heat _ _ h := h
  list _ _ _ h := h
  reflexes _ _ h := h
  lamps _ _ _ h := h
  free _ _ h := h
  port _ _ _ h := h
  profile _ _ _ _ h := h
  shorts _ h := h
  rail _ _ _ _ _ h := h
  switches _ _ h := h
  control _ _ _ h := h
  reset _ h := h

theorem rawChange_now (s : State) (n : SwitchNo) (high : Bool) : (s.rawChange n high).now = s.now := by
  unfold State.rawChange
  dsimp only
  split
  · rfl
  · split
    · rfl
    · split
      · exact (kept_now s.now).debounced n rfl
      · rfl

theorem takeSense_now (s : State) (c : Chan) (high : Bool) : (s.takeSense c high).now = s.now := by
  unfold State.takeSense
  dsimp only
  split
  · exact (kept_now s.now).startShort c rfl
  · rfl

theorem takeRailok_now (s : State) (high : Bool) : (s.takeRailok high).now = s.now := by
  unfold State.takeRailok
  dsimp only
  split
  · rfl
  · split <;> rfl

theorem advance_now (s : State) : s.advance.now = s.now + 1 :=
  congrArg (· + 1) ((kept_now s.now).settleValue rfl)

/-- A row of a powered part that is neither the advance nor the supply leaves the clock as it is. -/
theorem exec_now {i : Instr} {s t : State} (hi : movesClock i = false) (h : exec i s = .next t) :
    t.now = s.now := by
  have K := kept_now s.now
  cases rowKind_all i with
  | command c p =>
    rw [exec_row] at h
    exact K.commandRow c p rfl h
  | due _ e _ he =>
    rw [he] at h
    exact K.event (fun _ hs => K.takeDue e hs) rfl h
  | advance | powerOn | supplyFall => cases hi
  | resetnFall =>
    simp only [exec, execResetnFall] at h
    repeat' split at h
    all_goals cases h; rfl
  | resetnRise => cases h; rfl
  | receiveByte p b => exact K.event (fun _ hs => K.takeByte p b hs) rfl h
  | replyEnd p => exact K.event (fun _ hs => K.takeReplyEnd p hs) rfl h
  | switchRawChange n high =>
    simp only [exec, execSwitchRawChange] at h
    split at h
    · cases h; rfl
    · split at h <;> cases h
      · exact rawChange_now s n high
      · rfl
  | senseChange c high =>
    simp only [exec, execSenseChange] at h
    split at h
    · cases h; rfl
    · split at h <;> cases h
      · exact takeSense_now s c high
      · rfl
  | railokChange high =>
    simp only [exec, execRailokChange] at h
    split at h
    · cases h; rfl
    · split at h <;> cases h
      · exact takeRailok_now s high
      · rfl

/-! ## An advance with nothing due -/

/-- With no event outstanding the clock leaves its value at once (R1). -/
theorem settleValue_of_dueList_nil {s : State} (h : s.dueList = []) : s.settleValue = s := by
  rw [State.settleValue, h]; rfl

/-- Settles O8: `exec_now` for the rows that leave the clock alone, and `settleValue_of_dueList_nil` for an advance
with nothing due. -/
theorem clockAdvance : Obligations.ClockAdvance := by
  refine ⟨fun i s t hp h => ?_, fun s hp hd => ?_⟩
  · cases hm : movesClock i with
    | false =>
      obtain ⟨hadv, hsupply⟩ := ne_of_not_movesClock hm
      rw [if_neg hadv, if_neg hsupply]
      exact exec_now hm h
    | true =>
      cases i with
      | tableClockAdvance =>
        obtain rfl := Host.Outcome.next.inj ((event_of_powered hp State.advance).symm.trans h)
        exact advance_now s
      | powerOn => cases h; rfl
      | supplyFall => cases h; rfl
      | _ => cases hm
  · exact (event_of_powered hp State.advance).trans
      (by rw [State.advance, settleValue_of_dueList_nil hd]; rfl)

/-! ## The test "reached" and the comparators -/

/-- A value stays reached for 2,147,483,647 advances after its own (R4). -/
theorem reached_after (t : TableTime) {k : Nat} (hk : k < 2 ^ 32) :
    reached (t + BitVec.ofNat 32 k) t = true ↔ k ≤ 2147483647 := by
  have hsub : t + BitVec.ofNat 32 k - t = BitVec.ofNat 32 k := by
    rw [BitVec.add_comm, BitVec.add_sub_cancel]
  rw [reached, hsub, BitVec.toNat_ofNat, Nat.mod_eq_of_lt hk, decide_eq_true_iff]
  omega

theorem takeComparator_of_due {s : State} {p : Port} (harmed : (s.port p).comparator.armed = true)
    (halarm : (s.port p).comparator.alarm = false) (hvalue : (s.port p).comparator.value = s.time) :
    s.takeComparator p =
      s.modPort p fun ps => { ps with comparator := ⟨ps.comparator.value, true, true⟩ } := by
  have hdue : s.comparatorDue p = true := by simp [State.comparatorDue, harmed, halarm, hvalue]
  rw [State.takeComparator, if_pos hdue]
  exact State.modPort_congr (by simp only [harmed])

theorem takeLapse_of_due {s : State} {p : Port} (harmed : (s.port p).comparator.armed = true)
    (halarm : (s.port p).comparator.alarm = true)
    (hvalue : (s.time - (s.port p).comparator.value).toNat = 2 ^ 31) :
    s.takeLapse p =
      s.modPort p fun ps => { ps with comparator := ⟨ps.comparator.value, true, false⟩ } := by
  have hdue : s.lapseDue p = true := by simp [State.lapseDue, harmed, halarm, hvalue]
  rw [State.takeLapse, if_pos hdue]
  exact State.modPort_congr (by simp only [harmed])

/-- Settles O7: the clock commands are `exec_row_of_ready`; the condition begins and ends as an armed comparator is
due. -/
theorem clockAndComparators : Obligations.ClockAndComparators := by
  refine ⟨fun t k hk => reached_after t hk, fun s p time hs => ⟨?_, ?_, ?_⟩,
    fun s p hp harmed => ⟨fun halarm hvalue => ?_, fun halarm hvalue => ?_⟩⟩
  · exact exec_row_of_ready hs .readClock
  · exact exec_row_of_ready hs (.setAlarmTime time)
  · exact exec_row_of_ready hs .disarm
  · exact (event_of_powered hp (State.takeComparator · p)).trans
      (by rw [takeComparator_of_due harmed halarm hvalue])
  · exact (event_of_powered hp (State.takeLapse · p)).trans (by rw [takeLapse_of_due harmed halarm hvalue])

end Sys2Proof.Machine

/-!
The values right after power-on.
-/

namespace Sys2Proof.Machine

@[simp] theorem reset_port (p : Port) : State.reset.port p = .default := by cases p <;> rfl

@[simp] theorem reset_chan (c : Chan) : State.reset.chan c = .default :=
  Vector.getElem_replicate c.isLt

@[simp] theorem reset_reflexAt (x : ReflexNo) : State.reset.reflexAt x = .default :=
  Vector.getElem_replicate x.isLt

@[simp] theorem reset_lamp (l : LampNo) : State.reset.lamp l = .default :=
  Vector.getElem_replicate l.isLt

theorem inRange_default :
    PortState.default.inRange ∧ Channel.default.inRange := by
  decide

/-- The units in use are the sum of 24 draws of 0. -/
theorem reset_unitsRight : State.reset.unitsRight := by
  simp [State.unitsRight, State.totalDraw, State.reset, Arbiter.default, Channel.default, Channel.draw,
    Channel.drawIn]

theorem reset_inRange : State.reset.inRange := by
  refine ⟨fun p => ?_, fun c => ?_, fun p => ?_, by decide, nofun, by decide, by decide⟩
  · rw [reset_port]; exact inRange_default.1
  · rw [reset_chan]; exact inRange_default.2
  · exact Nat.zero_le _

theorem reset_coherent : State.reset.coherent := fun c => by
  rw [reset_chan]
  exact ⟨rfl, rfl, nofun⟩

theorem reset_linesRight : State.reset.linesRight := fun p => by
  rw [reset_port]; decide

theorem reset_railRight : State.reset.railRight :=
  ⟨fun c h => by (rw [reset_chan] at h; cases h), fun _ => rfl⟩

/-- Settles O4: each table at reset holds its block's power-on values, which are read off; the invariants are the
`reset_` lemmas. -/
theorem resetValues : Obligations.ResetValues := by
  refine ⟨rfl, rfl, rfl, rfl, rfl, rfl, rfl, rfl, rfl, fun p => ?_, fun c => ?_, fun x => ?_, fun l => ?_,
    rfl, rfl, rfl, reset_unitsRight, reset_inRange, reset_coherent, reset_linesRight, reset_railRight⟩
  · rw [State.link, reset_port]
    exact ⟨rfl, rfl, rfl, rfl, rfl, rfl, rfl, rfl, rfl, rfl, rfl, rfl⟩
  · rw [reset_chan]
    exact ⟨rfl, rfl, rfl, rfl, rfl, rfl, rfl⟩
  · rw [reset_reflexAt]
    exact ⟨rfl, rfl, rfl⟩
  · rw [reset_lamp]
    exact ⟨rfl, rfl, rfl, rfl, rfl, rfl⟩

end Sys2Proof.Machine

/-!
SUPPORT. The parts of an event in the order pipeline, one rule for each: what `State.doAll` does with a part at the
front of its list, for an order that is the one entry of its port and tag. And what the end of an order leaves of
the pending table.
-/

namespace Sys2Proof.Machine

/-! ## The one entry of a port and tag -/

/-- An entry of a pending table that is the only one of its port and tag (R76). -/
structure SoleIn (table : List Entry) (e : Entry) : Prop where
  mem : e ∈ table
  unique : ∀ x ∈ table, x.is e.port e.order.tag = true → x = e

theorem Entry.is_iff {e : Entry} {p : Port} {tag : Byte} :
    e.is p tag = true ↔ e.port = p ∧ e.order.tag = tag := by simp [Entry.is]

@[simp] theorem Entry.is_self (e : Entry) : e.is e.port e.order.tag = true := Entry.is_iff.mpr ⟨rfl, rfl⟩

theorem find?_of_unique {α : Type} {q : α → Bool} {l : List α} {a : α} (ha : a ∈ l) (hq : q a = true)
    (hu : ∀ x ∈ l, q x = true → x = a) : l.find? q = some a := by
  cases h : l.find? q with
  | none => exact absurd hq (List.find?_eq_none.mp h a ha)
  | some x => rw [hu x (List.mem_of_find?_eq_some h) (List.find?_some h)]

namespace SoleIn

theorem of_unique {table : List Entry} {e : Entry} (hm : e ∈ table)
    (hu : ∀ x ∈ table, x.port = e.port → x.order.tag = e.order.tag → x = e) : SoleIn table e :=
  ⟨hm, fun x hx h => hu x hx (Entry.is_iff.mp h).1 (Entry.is_iff.mp h).2⟩

theorem entry {s : State} {e : Entry} (h : SoleIn s.table e) : s.entry e.port e.order.tag = some e :=
  find?_of_unique h.mem e.is_self h.unique

theorem liveEntry {s : State} {e : Entry} (h : SoleIn s.table e) (hl : e.live = true) :
    s.liveEntry e.port e.order.tag = some e :=
  find?_of_unique h.mem (by simp [hl]) fun x hx hxe => h.unique x hx (Bool.and_eq_true_iff.mp hxe).1

/-- The entry itself after a change that keeps its port and tag. -/
theorem modEntry {s : State} {e : Entry} (h : SoleIn s.table e) {f : Entry → Entry}
    (hf : (f e).port = e.port ∧ (f e).order.tag = e.order.tag) :
    SoleIn (s.modEntry e.port e.order.tag f).table (f e) := by
  refine ⟨List.mem_map.mpr ⟨e, h.mem, by simp⟩, fun x hx hxe => ?_⟩
  obtain ⟨y, hy, rfl⟩ := List.mem_map.mp hx
  rw [hf.1, hf.2] at hxe
  split at hxe
  · rename_i hye
    rw [if_pos hye, h.unique y hy hye]
  · rename_i hye
    exact absurd hxe hye

/-- Another entry after such a change. -/
theorem modEntry_other {s : State} {g : Entry} (h : SoleIn s.table g) {p : Port} {tag : Byte}
    (hg : g.is p tag = false) {f : Entry → Entry} (hf : ∀ e, (f e).port = e.port ∧ (f e).order = e.order) :
    SoleIn (s.modEntry p tag f).table g := by
  refine ⟨List.mem_map.mpr ⟨g, h.mem, by simp [hg]⟩, fun x hx hxg => ?_⟩
  obtain ⟨y, hy, rfl⟩ := List.mem_map.mp hx
  have hyg : y = g := by
    refine h.unique y hy ?_
    split at hxg
    · rwa [Entry.is, (hf y).1, (hf y).2] at hxg
    · exact hxg
  rw [hyg, hg]
  rfl

/-- Two changes that agree on the entry are one. -/
theorem modEntry_congr {s : State} {e : Entry} (h : SoleIn s.table e) {f g : Entry → Entry} (hfg : f e = g e) :
    s.modEntry e.port e.order.tag f = s.modEntry e.port e.order.tag g := by
  have : ∀ x ∈ s.table, (if x.is e.port e.order.tag then f x else x)
      = if x.is e.port e.order.tag then g x else x := by
    intro x hx
    split
    · rename_i hxe
      rw [h.unique x hx hxe, hfg]
    · rfl
  simp only [State.modEntry, List.map_congr_left this]

end SoleIn

theorem Entry.moveTo_of_live {e : Entry} (h : e.live = true) (stage : Stage) :
    e.moveTo stage = { e with stage := stage } := if_pos h

/-! ## An order in no channel queue -/

theorem isTestingFront_of_absent {ch : Channel} {o : Owner} (h : ∀ q ∈ ch.queue, q.owner ≠ o) :
    ch.isTestingFront o = false := by
  unfold Channel.isTestingFront
  cases hq : ch.queue with
  | nil => simp
  | cons q qs => simp [h q (by simp [hq])]

theorem State.leaveQueue_of_absent {s : State} {c : Chan} {o : Owner}
    (h : ∀ q ∈ (s.chan c).queue, q.owner ≠ o) (ex : Bool) : s.leaveQueue ex c o = s := by
  have hf : (s.chan c).queue.filter (fun q => q.owner != o) = (s.chan c).queue :=
    List.filter_eq_self.mpr fun q hq => by simpa using h q hq
  simp only [State.leaveQueue, isTestingFront_of_absent h, Bool.false_eq_true, if_false]
  exact State.modChan_of_eq (by rw [hf])

theorem Phase.ne_idle_of_busy {ph : Phase} (h : ph.busy = true) : (ph == .idle) = false := by
  cases ph <;> first | rfl | cases h

@[simp] theorem State.modChan_modChan (s : State) (c : Chan) (f g : Channel → Channel) :
    (s.modChan c f).modChan c g = s.modChan c fun ch => g (f ch) := by
  simp [State.modChan, Vector.set_set]

/-- At a channel that is not IDLE a member joins the queue and nothing is offered (R32). -/
theorem enqueue_of_not_idle (ex : Bool) {c : Chan} (q : QueueMember) {s : State}
    (h : ((s.chan c).phase == .idle) = false) :
    enqueue ex c q s = ⟨[], [], s.modChan c fun ch => { ch with queue := insertQueue q ch.queue }⟩ := by
  simp only [enqueue, h, Bool.false_and, Bool.false_eq_true, if_false]

/-! ## The end of an order -/

/-- All that an end writes: its port's record but for the ring, and the table, where the entry is freed, or held as
DONE_HELD (R90, R95, R98). -/
theorem conclude_shape (s : State) (e : Entry) (status : EndStatus) :
    ∃ f l, s.conclude e status = { s.modPort e.port f with table := l }
      ∧ (∀ ps, (f ps).ring = ps.ring)
      ∧ (l = (s.freeEntry e.port e.order.tag).table
        ∨ l = (s.modEntry e.port e.order.tag fun e => { e with stage := .doneHeld }).table) := by
  unfold State.conclude
  simp only [State.modPort_modPort]
  split
  · exact ⟨_, _, rfl, fun _ => rfl, .inl rfl⟩
  · split
    · exact ⟨_, _, rfl, fun _ => rfl, .inl rfl⟩
    · exact ⟨_, _, rfl, fun _ => rfl, .inr rfl⟩

theorem conclude_table (s : State) (e : Entry) (status : EndStatus) :
    (s.conclude e status).table = (s.freeEntry e.port e.order.tag).table
      ∨ (s.conclude e status).table
        = (s.modEntry e.port e.order.tag fun e => { e with stage := .doneHeld }).table := by
  obtain ⟨f, l, h, -, hl⟩ := conclude_shape s e status
  rw [h]; exact hl

@[simp] theorem conclude_chan (s : State) (e : Entry) (status : EndStatus) (c : Chan) :
    (s.conclude e status).chan c = s.chan c := by
  obtain ⟨f, l, h, -⟩ := conclude_shape s e status
  rw [h]; rfl

@[simp] theorem conclude_now (s : State) (e : Entry) (status : EndStatus) :
    (s.conclude e status).now = s.now := by
  obtain ⟨f, l, h, -⟩ := conclude_shape s e status
  rw [h]; rfl

@[simp] theorem conclude_time (s : State) (e : Entry) (status : EndStatus) :
    (s.conclude e status).time = s.time := congrArg stampOf (conclude_now s e status)

@[simp] theorem conclude_ring (s : State) (e : Entry) (status : EndStatus) :
    ((s.conclude e status).port e.port).ring = (s.port e.port).ring := by
  obtain ⟨f, l, h, hring, -⟩ := conclude_shape s e status
  rw [h]
  exact (congrArg PortState.ring (State.port_modPort_self s e.port f)).trans (hring _)

/-- An end leaves every other entry. -/
theorem SoleIn.conclude {s : State} {g : Entry} (h : SoleIn s.table g) {e : Entry}
    (hg : g.is e.port e.order.tag = false) (status : EndStatus) :
    SoleIn (s.conclude e status).table g := by
  rcases conclude_table s e status with ht | ht <;> rw [ht]
  · exact ⟨List.mem_filter.mpr ⟨h.mem, by simp [hg]⟩, fun x hx => h.unique x (List.mem_filter.mp hx).1⟩
  · exact h.modEntry_other hg fun _ => ⟨rfl, rfl⟩

/-- What follows after an end followed before it: a freed or held entry follows none. -/
theorem mem_of_follows_conclude {s : State} {e g : Entry} {status : EndStatus} {p : Port} {tag : Byte}
    (hg : g ∈ (s.conclude e status).table) (hf : g.follows p tag = true) : g ∈ s.table := by
  rcases conclude_table s e status with ht | ht <;> rw [ht] at hg
  · exact (List.mem_filter.mp hg).1
  · obtain ⟨y, hy, rfl⟩ := List.mem_map.mp hg
    by_cases hye : y.is e.port e.order.tag = true
    · simp [hye, Entry.follows] at hf
    · rwa [if_neg hye]

theorem followerWork_of_none {s : State} {p : Port} {tag : Byte}
    (h : ∀ g ∈ s.table, g.follows p tag = false) (good : Bool) : s.followerWork p tag good = [] := by
  rw [State.followerWork, List.find?_eq_none.mpr fun g hg => by simp [h g hg]]

theorem followerWork_of_follower {s : State} {p : Port} {tag : Byte} {f : Entry} (hm : f ∈ s.table)
    (hf : f.follows p tag = true) (hu : ∀ g ∈ s.table, g.follows p tag = true → g = f) (good : Bool) :
    s.followerWork p tag good
      = if good then [.ready p f.order.tag] else [.finish p f.order.tag .chainBroken] := by
  rw [State.followerWork, find?_of_unique hm hf hu]

/-! ## The parts, one at a time -/

/-- Nothing is taken from an empty ring. -/
theorem doAll_takes_of_empty {s : State} {p : Port} (h : (s.port p).ring.slots = []) (ex : Bool)
    (ws : List Work) : s.doAll ex (.takes p :: ws) = s.doAll ex ws := by
  have hrun : Work.run ex (.takes p) s = ⟨[], [], s⟩ := by
    simp only [Work.run, takeHead, h]
  rw [doAll_cons, hrun]
  simp

/-- The end of an order that stands in no channel queue. -/
theorem doAll_finish_of_absent {s : State} {e : Entry} (he : SoleIn s.table e) (hl : e.live = true)
    (hq : ∀ q ∈ (s.chan e.order.channel).queue, q.owner ≠ .order e.port e.order.tag) (status : EndStatus)
    (ex : Bool) (ws : List Work) :
    s.doAll ex (.finish e.port e.order.tag status :: ws) =
      (s.conclude e status).doAll ex
        ((s.conclude e status).followerWork e.port e.order.tag status.good ++ ws ++ [.takes e.port]) := by
  have hrun : Work.run ex (.finish e.port e.order.tag status) s =
      ⟨(s.conclude e status).followerWork e.port e.order.tag status.good, [.takes e.port],
        s.conclude e status⟩ := by
    simp only [Work.run, finish, he.liveEntry hl, isTestingFront_of_absent hq,
      State.leaveQueue_of_absent hq, Bool.false_eq_true, if_false, List.append_nil]
  rw [doAll_cons, hrun]

/-- The end of an order in no channel queue that none follows, with an empty ring behind it: its record alone. -/
theorem doAll_finish_alone {s : State} {e : Entry} (he : SoleIn s.table e) (hl : e.live = true)
    (hq : ∀ q ∈ (s.chan e.order.channel).queue, q.owner ≠ .order e.port e.order.tag)
    (hf : ∀ g ∈ s.table, g.follows e.port e.order.tag = false) (hr : (s.port e.port).ring.slots = [])
    (status : EndStatus) (ex : Bool) (n : Nat) :
    s.doAll ex (.finish e.port e.order.tag status :: List.replicate n (.takes e.port)) =
      s.conclude e status := by
  have hf' : ∀ g ∈ (s.conclude e status).table, g.follows e.port e.order.tag = false := fun g hg =>
    Bool.eq_false_iff.mpr fun h => by simp [hf g (mem_of_follows_conclude hg h)] at h
  have hr' : ((s.conclude e status).port e.port).ring.slots = [] := by rw [conclude_ring, hr]
  rw [doAll_finish_of_absent he hl hq, followerWork_of_none hf', List.nil_append, ← List.replicate_succ']
  induction n + 1 with
  | zero => exact doAll_nil ex _
  | succ m ih => rw [List.replicate_succ, doAll_takes_of_empty hr', ih]

/-- The due-time test of an order whose due time is absent or reached (R11). -/
theorem doAll_ready_of_reached {s : State} {e : Entry} (he : SoleIn s.table e)
    (hd : ∀ due, e.order.due = some due → reached s.time due = true) (ex : Bool) (ws : List Work) :
    s.doAll ex (.ready e.port e.order.tag :: ws) = s.doAll ex (.arrive e.port e.order.tag :: ws) := by
  have hrun : Work.run ex (.ready e.port e.order.tag) s = ⟨[.arrive e.port e.order.tag], [], s⟩ := by
    simp only [Work.run, ready, he.entry]
    cases h : e.order.due with
    | none => rfl
    | some due => simp [hd due h]
  rw [doAll_cons, hrun]
  simp

/-- The due-time test of an order whose due time is ahead: it enters SCHEDULED (R11). -/
theorem doAll_ready_of_ahead {s : State} {e : Entry} (he : SoleIn s.table e) (hl : e.live = true)
    {due : TableTime} (hd : e.order.due = some due) (hr : reached s.time due = false) (ex : Bool)
    (ws : List Work) :
    s.doAll ex (.ready e.port e.order.tag :: ws) =
      (s.modEntry e.port e.order.tag fun e =>
        { e with stage := .scheduled (s.now + (due - s.time).toNat) }).doAll ex ws := by
  have hrun : Work.run ex (.ready e.port e.order.tag) s =
      ⟨[], [], s.modEntry e.port e.order.tag fun e =>
        { e with stage := .scheduled (s.now + (due - s.time).toNat) }⟩ := by
    simp only [Work.run, ready, he.entry, hd, hr, Bool.false_eq_true, if_false]
    exact congrArg (WorkResult.mk [] []) (he.modEntry_congr (Entry.moveTo_of_live hl _))
  rw [doAll_cons, hrun]
  simp

/-- The arrival at a channel with a pulse or recycle on: the order joins the channel queue (R35). -/
theorem doAll_arrive_of_busy {s : State} {e : Entry} (he : SoleIn s.table e) (hl : e.live = true)
    (hb : (s.chan e.order.channel).phase.busy = true) (ex : Bool) (ws : List Work) :
    let a := (s.chan e.order.channel).arrivals
    s.doAll ex (.arrive e.port e.order.tag :: ws) =
      ((s.modEntry e.port e.order.tag fun e => { e with stage := .queued, arrival := some a }).modChan
        e.order.channel fun ch =>
          { ch with
            arrivals := a + 1
            queue := insertQueue ⟨.order e.port e.order.tag, e.order.priority, a⟩ ch.queue }).doAll ex ws := by
  intro a
  have hrun : Work.run ex (.arrive e.port e.order.tag) s =
      ⟨[], [], (s.modEntry e.port e.order.tag fun e => { e with stage := .queued, arrival := some a }).modChan
        e.order.channel fun ch =>
          { ch with
            arrivals := a + 1
            queue := insertQueue ⟨.order e.port e.order.tag, e.order.priority, a⟩ ch.queue }⟩ := by
    have hentry := he.modEntry_congr (f := fun e => { e.moveTo .queued with arrival := some a })
      (g := fun e => { e with stage := .queued, arrival := some a }) (by rw [Entry.moveTo_of_live hl])
    have hidle := Phase.ne_idle_of_busy hb
    simp only [Work.run, arrive, he.entry]
    split
    · rename_i hp; rw [hp] at hb; cases hb
    · rename_i hp; rw [hp] at hb; cases hb
    · rw [hentry, enqueue_of_not_idle _ _ (by simpa using hidle), State.modChan_modChan]
  rw [doAll_cons, hrun]
  simp

/-- The arrival at a channel that is out of service: the order ends (R35). -/
theorem doAll_arrive_of_out {s : State} {e : Entry} (he : SoleIn s.table e) {status : EndStatus}
    (ho : (s.chan e.order.channel).phase = .offline ∧ status = .channelOffline
      ∨ (s.chan e.order.channel).phase = .faulted ∧ status = .channelFault) (ex : Bool) (ws : List Work) :
    s.doAll ex (.arrive e.port e.order.tag :: ws) = s.doAll ex (.finish e.port e.order.tag status :: ws) := by
  have hrun : Work.run ex (.arrive e.port e.order.tag) s =
      ⟨[.finish e.port e.order.tag status], [], s⟩ := by
    rcases ho with ⟨hp, rfl⟩ | ⟨hp, rfl⟩ <;> simp only [Work.run, arrive, he.entry, hp]
  rw [doAll_cons, hrun]
  simp

end Sys2Proof.Machine

/-!
The due-time expiry of an order.
-/

namespace Sys2Proof.Machine

theorem takeDueTime_of_due {s : State} {e : Entry} (he : SoleIn s.table e) {expiry : Nat}
    (hs : e.stage = .scheduled expiry) (hd : expiry ≤ s.now) :
    s.takeDueTime e.port e.order.tag = s.doAll true [.arrive e.port e.order.tag] :=
  if_pos (by simp [State.dueTimeDue, he.entry, hs, hd])

/-- Settles O32: the expiry is the arrival (`takeDueTime_of_due`), which joins the queue of a busy channel and ends
at one out of service. -/
theorem dueTimeExpiryArrives : Obligations.DueTimeExpiryArrives := by
  intro s e expiry hp hm hu hs hd p tag c a
  have he := SoleIn.of_unique hm hu
  have hl : e.live = true := by simp [Entry.live, hs]
  have hexec : exec (.dueTimeExpiry p tag) s = .next (s.doAll true [.arrive p tag]).decideLines :=
    (event_of_powered hp (State.takeDueTime · p tag)).trans (by rw [takeDueTime_of_due he hs hd])
  refine ⟨fun hb => ?_, fun status ho hq hr hf => ?_⟩
  · rw [hexec, doAll_arrive_of_busy he hl hb, doAll_nil]
  · have habsent : ∀ q ∈ (s.chan c).queue, q.owner ≠ .order p tag := by rw [hq]; nofun
    rw [hexec, doAll_arrive_of_out he ho]
    exact congrArg (fun t => Host.Outcome.next t.decideLines)
      (doAll_finish_alone he hl habsent hf hr status true 0)

end Sys2Proof.Machine

/-!
The take of a posted order and its chain step, and what the end of an order does to its follower.
-/

namespace Sys2Proof.Machine

/-! ## An accepted POST ORDER -/

theorem orderRefusal_ne_ok (s : State) (p : Port) (r : OrderRecord) (c : Chan) (kind : OrderKind) :
    s.orderRefusal p r c kind ≠ some .ok := by
  unfold State.orderRefusal
  dsimp only
  repeat' split
  all_goals nofun

/-- An order that passes the tests of POST ORDER has a tag that no pending entry of its port has (R74, R76). -/
theorem entry_of_not_refused {s : State} {p : Port} {r : OrderRecord} {c : Chan} {kind : OrderKind}
    (h : s.orderRefusal p r c kind = none) : s.entry p r.tag = none := by
  have htag : s.tagLive p r.tag ≠ true := fun ht => by
    unfold State.orderRefusal at h
    simp only [ht, if_true] at h
    repeat' split at h
    all_goals cases h
  simp only [State.tagLive, ne_eq, Bool.or_eq_true, not_or] at htag
  simpa using htag.2

/-- The answer to a POST ORDER that is accepted (R74). -/
theorem answerPostOrder_of_ok {s : State} {p : Port} {r : OrderRecord} {c : Chan} {kind : OrderKind}
    (hc : channelOf r.channel = some c) (hk : orderKindOf r.kind = some kind)
    (hok : (answerPostOrder p r s).status = .ok) :
    answerPostOrder p r s =
        ⟨.ok, [byte (s.port p).ring.tailSlot], s.acceptOrder p (workingOrder r c kind)⟩
      ∧ s.entry p r.tag = none := by
  unfold answerPostOrder at *
  rw [hc, hk] at *
  dsimp only at *
  cases h : s.orderRefusal p r c kind with
  | none => exact ⟨rfl, entry_of_not_refused h⟩
  | some status =>
    rw [h] at hok
    obtain rfl : status = .ok := hok
    exact absurd h (orderRefusal_ne_ok s p r c kind)

/-- The working values of an order record, as R73 gives them. -/
theorem workingOrder_eq (r : OrderRecord) (c : Chan) (kind : OrderKind) :
    workingOrder r c kind =
      { tag := r.tag
        channel := c
        kind := kind
        priority := max 1 r.priority.toNat
        fraction := if kind = .train ∨ r.fraction.toNat = 0 then 16 else min 16 r.fraction.toNat
        count := if kind = .train then r.count.toNat else 1
        gap := if kind = .train then r.gap.toNat else 0
        follow := r.follow
        quiet := r.quiet
        due := r.due } := by
  cases kind <;> simp [workingOrder, priorityRead, fractionRead]

/-! ## The take -/

/-- The state after the only order of a ring has been taken as an entry: the ring is empty and the order is its
port's tail (R79, R101). -/
def State.withTaken (s : State) (p : Port) (e : Entry) : State :=
  { s with table := s.table ++ [e] }.modPort p fun ps =>
    { ps with ring := ⟨(ps.ring.head + 1) % 32, []⟩, tail := ⟨some e.order.tag, .live⟩ }

theorem withTaken_ring (s : State) (p : Port) (e : Entry) : ((s.withTaken p e).port p).ring.slots = [] := by
  simp [State.withTaken]

theorem is_false_of_entry_none {s : State} {p : Port} {tag : Byte} (h : s.entry p tag = none) :
    ∀ x ∈ s.table, x.is p tag = false := fun x hx => by
  simpa using List.find?_eq_none.mp h x hx

/-- A taken entry whose tag was not pending is the one of its port and tag. -/
theorem soleIn_withTaken {s : State} {p : Port} {e : Entry} (hp : e.port = p)
    (h : s.entry p e.order.tag = none) : SoleIn (s.withTaken p e).table e := by
  subst hp
  refine ⟨List.mem_append_right _ (by simp), fun x hx hxe => ?_⟩
  rcases List.mem_append.mp hx with hx | hx
  · rw [is_false_of_entry_none h x hx] at hxe; cases hxe
  · simpa using hx

/-- A change of the taken entry is the take of the changed one. -/
theorem modEntry_withTaken {s : State} {p : Port} {e : Entry} (hp : e.port = p)
    (h : s.entry p e.order.tag = none) {f : Entry → Entry} (hf : (f e).order.tag = e.order.tag) :
    (s.withTaken p e).modEntry p e.order.tag f = s.withTaken p (f e) := by
  have hmap : s.table.map (fun x => if x.is p e.order.tag then f x else x) = s.table := by
    conv_rhs => rw [← List.map_id s.table]
    exact List.map_congr_left fun x hx => by rw [is_false_of_entry_none h x hx]; rfl
  have he : e.is p e.order.tag = true := Entry.is_iff.mpr ⟨hp, rfl⟩
  simp only [State.withTaken, State.modEntry, State.modPort, List.map_append, hmap, List.map_cons,
    List.map_nil, he, if_true, hf]

/-- An order accepted into an empty ring below the quota is taken at once (R79, R80). -/
theorem acceptOrder_of_empty {s : State} {p : Port} (hr : (s.port p).ring.slots = [])
    (hq : (s.entriesOf p).length < 16) (o : Order) {stage : Stage} {work : List Work}
    (ht : takeOutcome p ⟨o, none⟩ (s.port p).tail = (stage, work)) :
    s.acceptOrder p o = (s.withTaken p (Entry.taken p o stage)).doAll true (work ++ [.takes p]) := by
  let s1 := s.modPort p fun ps => { ps with ring := { ps.ring with slots := ps.ring.slots ++ [⟨o, none⟩] } }
  have hps : s1.port p = { s.port p with ring := ⟨(s.port p).ring.head, [⟨o, none⟩]⟩ } := by
    simp [s1, hr]
  have hrun : Work.run true (.takes p) s1 =
      ⟨work, [.takes p], s.withTaken p (Entry.taken p o stage)⟩ := by
    have hq' : (s1.entriesOf p).length < Config.quota := hq
    simp only [Work.run, takeHead, hps, if_pos hq', ht]
    simp only [s1, State.modPort, State.withTaken, PerPort.set_set, PerPort.get_set_self]
    rfl
  rw [State.acceptOrder, doAll_cons, hrun, List.append_nil]

/-! ## Where the taken order goes -/

/-- An accepted order behind a LIVE tail waits in FOLLOWING (R101). -/
theorem acceptOrder_following {s : State} {p : Port} (hr : (s.port p).ring.slots = [])
    (hq : (s.entriesOf p).length < 16) {o : Order} (hf : o.follow = true) {n : Byte}
    (ht : (s.port p).tail = ⟨some n, .live⟩) :
    s.acceptOrder p o = s.withTaken p (Entry.taken p o (.following n)) := by
  rw [acceptOrder_of_empty hr hq o (stage := .following n) (work := []) (by simp [takeOutcome, hf, ht]),
    List.nil_append, doAll_takes_of_empty (withTaken_ring s p _), doAll_nil]

/-- Behind a BAD tail it ends CHAIN_BROKEN (R101). -/
theorem acceptOrder_broken {s : State} {p : Port} (hr : (s.port p).ring.slots = [])
    (hq : (s.entriesOf p).length < 16) {o : Order} (hf : o.follow = true)
    (ht : (s.port p).tail.outcome = .bad) (htag : s.entry p o.tag = none)
    (habsent : ∀ q ∈ (s.chan o.channel).queue, q.owner ≠ .order p o.tag)
    (hfol : ∀ f ∈ s.table, f.follows p o.tag = false) :
    s.acceptOrder p o =
      (s.withTaken p (Entry.taken p o .queued)).conclude (Entry.taken p o .queued) .chainBroken := by
  rw [acceptOrder_of_empty hr hq o (stage := .queued) (work := [.finish p o.tag .chainBroken])
    (by simp [takeOutcome, hf, ht])]
  refine doAll_finish_alone (e := Entry.taken p o .queued) (soleIn_withTaken rfl htag) rfl habsent
    (fun g hg => ?_) (withTaken_ring s p _) .chainBroken true 1
  rcases List.mem_append.mp hg with hg | hg
  · exact hfol g hg
  · rw [List.mem_singleton.mp hg]; simp [Entry.taken, Entry.follows]

/-- Without the follow flag, or behind a GOOD tail, it meets its due-time test (R101). -/
theorem acceptOrder_ready {s : State} {p : Port} (hr : (s.port p).ring.slots = [])
    (hq : (s.entriesOf p).length < 16) {o : Order}
    (hf : o.follow = false ∨ (s.port p).tail.outcome = .good) :
    s.acceptOrder p o =
      (s.withTaken p (Entry.taken p o .queued)).doAll true [.ready p o.tag, .takes p] := by
  refine acceptOrder_of_empty hr hq o (work := [.ready p o.tag]) ?_
  rcases hf with hf | hf <;> simp [takeOutcome, hf]

/-- An order that is ready with its due time ahead enters SCHEDULED (R11). -/
theorem acceptOrder_scheduled {s : State} {p : Port} (hr : (s.port p).ring.slots = [])
    (hq : (s.entriesOf p).length < 16) {o : Order}
    (hf : o.follow = false ∨ (s.port p).tail.outcome = .good) (htag : s.entry p o.tag = none)
    {due : TableTime} (hd : o.due = some due) (hahead : reached s.time due = false) :
    s.acceptOrder p o =
      s.withTaken p (Entry.taken p o (.scheduled (s.now + (due - s.time).toNat))) := by
  have hready := doAll_ready_of_ahead (e := Entry.taken p o .queued) (soleIn_withTaken rfl htag) rfl hd hahead
    true [.takes p]
  rw [acceptOrder_ready hr hq hf]
  refine hready.trans ?_
  rw [modEntry_withTaken rfl htag rfl]
  exact (doAll_takes_of_empty (withTaken_ring s p _) true []).trans (doAll_nil _ _)

/-- An order that is ready with no due time ahead joins the queue of a busy channel (R11, R35). -/
theorem acceptOrder_arrives {s : State} {p : Port} (hr : (s.port p).ring.slots = [])
    (hq : (s.entriesOf p).length < 16) {o : Order}
    (hf : o.follow = false ∨ (s.port p).tail.outcome = .good) (htag : s.entry p o.tag = none)
    (hd : ∀ due, o.due = some due → reached s.time due = true)
    (hb : (s.chan o.channel).phase.busy = true) :
    let a := (s.chan o.channel).arrivals
    s.acceptOrder p o =
      (s.withTaken p { Entry.taken p o .queued with arrival := some a }).modChan o.channel fun ch =>
        { ch with
          arrivals := a + 1
          queue := insertQueue ⟨.order p o.tag, o.priority, a⟩ ch.queue } := by
  intro a
  have hs := soleIn_withTaken (e := Entry.taken p o .queued) rfl htag
  have hready := doAll_ready_of_reached hs hd true [.takes p]
  have harrive := doAll_arrive_of_busy hs rfl hb true [.takes p]
  rw [acceptOrder_ready hr hq hf]
  refine hready.trans (harrive.trans ?_)
  rw [modEntry_withTaken rfl htag rfl]
  refine Eq.trans (doAll_takes_of_empty ?_ true []) (doAll_nil _ _)
  exact withTaken_ring s p _

/-! ## The end of an order and its follower -/

/-- An order's entry and that of its one follower (R101). -/
structure Linked (table : List Entry) (e f : Entry) : Prop where
  sole : SoleIn table e
  follower : SoleIn table f
  port : f.port = e.port
  stage : f.stage = .following e.order.tag
  apart : f.is e.port e.order.tag = false
  only : ∀ g ∈ table, g.follows e.port e.order.tag = true → g = f

namespace Linked

theorem follows {table : List Entry} {e f : Entry} (h : Linked table e f) :
    f.follows e.port e.order.tag = true := by simp [Entry.follows, h.port, h.stage]

theorem live {table : List Entry} {e f : Entry} (h : Linked table e f) : f.live = true := by
  simp [Entry.live, h.stage]

/-- A change of the order's own entry keeps the link, if the entry follows none after it. -/
theorem modEntry {s : State} {e f : Entry} (h : Linked s.table e f) {g : Entry → Entry}
    (hg : ∀ e, (g e).port = e.port ∧ (g e).order = e.order)
    (hstage : ∀ tag, (g e).stage ≠ .following tag) :
    Linked (s.modEntry e.port e.order.tag g).table (g e) f where
  sole := h.sole.modEntry ⟨(hg e).1, by rw [(hg e).2]⟩
  follower := h.follower.modEntry_other h.apart hg
  port := h.port.trans (hg e).1.symm
  stage := by rw [(hg e).2]; exact h.stage
  apart := by rw [(hg e).1, (hg e).2]; exact h.apart
  only x hx hxf := by
    rw [(hg e).1, (hg e).2] at hxf
    obtain ⟨y, hy, rfl⟩ := List.mem_map.mp hx
    by_cases hye : y.is e.port e.order.tag = true
    · rw [if_pos hye, h.sole.unique y hy hye] at hxf
      simp [Entry.follows, hstage] at hxf
    · rw [if_neg hye] at hxf ⊢
      exact h.only y hy hxf

/-- The work that the end of an order leaves for its follower (R102). -/
theorem followerWork {s : State} {e f : Entry} (h : Linked s.table e f) (status : EndStatus) :
    (s.conclude e status).followerWork e.port e.order.tag status.good
      = if status.good then [.ready f.port f.order.tag]
        else [.finish f.port f.order.tag .chainBroken] := by
  rw [h.port]
  exact followerWork_of_follower (h.follower.conclude h.apart status).mem h.follows
    (fun g hg hgf => h.only g (mem_of_follows_conclude hg hgf) hgf) _

end Linked

/-- An end with a bad outcome breaks the follower, whose record comes next (R102). -/
theorem doAll_finish_breaks {s : State} {e f : Entry} (h : Linked s.table e f) (hl : e.live = true)
    (hlast : ∀ g ∈ s.table, g.follows e.port f.order.tag = false) (hr : (s.port e.port).ring.slots = [])
    (hqe : ∀ q ∈ (s.chan e.order.channel).queue, q.owner ≠ .order e.port e.order.tag)
    (hqf : ∀ q ∈ (s.chan f.order.channel).queue, q.owner ≠ .order e.port f.order.tag)
    {status : EndStatus} (hbad : status.good = false) :
    s.doAll true [.finish e.port e.order.tag status] = (s.conclude e status).conclude f .chainBroken := by
  have hr' : ((s.conclude e status).port f.port).ring.slots = [] := by rw [h.port, conclude_ring, hr]
  have hlast' : ∀ g ∈ (s.conclude e status).table, g.follows f.port f.order.tag = false := fun g hg =>
    Bool.eq_false_iff.mpr fun hgf => by
      rw [h.port] at hgf
      rw [hlast g (mem_of_follows_conclude hg hgf)] at hgf
      cases hgf
  rw [doAll_finish_of_absent h.sole hl hqe, h.followerWork, hbad, ← h.port]
  exact doAll_finish_alone (h.follower.conclude h.apart status) h.live
    (by rw [conclude_chan, h.port]; exact hqf) hlast' hr' .chainBroken true 1

/-- An end with a good outcome releases the follower to its due-time test, and then the takes follow (R102). -/
theorem doAll_finish_releases {s : State} {e f : Entry} (h : Linked s.table e f) (hl : e.live = true)
    (hqe : ∀ q ∈ (s.chan e.order.channel).queue, q.owner ≠ .order e.port e.order.tag)
    {status : EndStatus} (hgood : status.good = true) :
    s.doAll true [.finish e.port e.order.tag status] =
      (s.conclude e status).doAll true [.ready f.port f.order.tag, .takes f.port] := by
  rw [doAll_finish_of_absent h.sole hl hqe, h.followerWork, hgood, h.port]
  rfl

/-- CANCEL ORDER of an order that waits for its predecessor or its due time (R104, R105). -/
theorem answerCancelOrder_of_waiting {s : State} {e : Entry} (he : SoleIn s.table e)
    (hstage : (∃ n, e.stage = .following n) ∨ ∃ n, e.stage = .scheduled n)
    (hr : (s.port e.port).ring.slots = []) :
    answerCancelOrder e.port e.order.tag s =
      ⟨.ok, [], s.doAll true [.finish e.port e.order.tag .cancelled]⟩ := by
  rcases hstage with ⟨n, hn⟩ | ⟨n, hn⟩ <;>
    simp [answerCancelOrder, hr, he.liveEntry (show e.live = true by simp [Entry.live, hn]), hn]

/-! ## The kick end of a PULSE order -/

/-- A plain pulse of a PULSE order whose kick is over, with a recycle to come. -/
structure KickOver (s : State) (e : Entry) (pu : Pulse) : Prop where
  running : e.stage = .running
  order : e.order.kind = .pulse
  phase : (s.chan e.order.channel).phase = .kick
  pulse : (s.chan e.order.channel).pulse = some pu
  owner : pu.owner = .order e.port e.order.tag
  owned : pu.owned = true
  plain : pu.kind = .plain
  sampled : pu.openCheck ≠ .pending
  due : pu.start + pu.kickLength ≤ s.now
  recycles : 0 < pu.recycleLength

theorem takeKickEnd_of_over {s : State} {e : Entry} {pu : Pulse} (h : KickOver s e pu) :
    s.takeKickEnd e.order.channel = s.endPulse e.order.channel .complete none := by
  have hdue : kickEndDue s.now (s.chan e.order.channel) = true := by
    simp [kickEndDue, h.phase, h.pulse, h.due]
  have hsampled : (pu.openCheck == .pending) = false := by simpa using h.sampled
  rw [State.takeKickEnd, if_pos hdue]
  simp only [State.kickEnd, h.pulse, hsampled, State.leaveKick, h.plain, Bool.false_eq_true, if_false]

/-- The state in which the end of a PULSE order's own pulse leaves the order to end: the pulse recycles without an
owner and the entry keeps the cause (R15, R27, R87). -/
def State.pulseEnded (s : State) (c : Chan) (p : Port) (tag : Byte) (cause : Cause) : State :=
  ((s.stopPulse c none).modEntry p tag fun e => { e with lastCause := some cause }).modPulse c
    fun pu => { pu with owned := false }

theorem examineIf_of_nil {s : State} (h : s.arbiter.list = []) (ex : Bool) : s.examineIf ex = s := by
  cases ex
  · rfl
  · simp [State.examineIf, State.examine, h, examineFrom]

theorem chan_setPhase (s : State) (c d : Chan) (ph : Phase) :
    (s.setPhase c ph).chan d = if c = d then { (s.chan c).updateHeat s.now with phase := ph } else s.chan d :=
  State.chan_modChan s c d fun ch => { ch.updateHeat s.now with phase := ph }

/-- The stop of a pulse reaches neither the queue nor the arrivals of any channel. -/
theorem chan_stopPulse (s : State) (c d : Chan) (latch : Option FaultKind) :
    ((s.stopPulse c latch).chan d).queue = (s.chan d).queue
      ∧ ((s.stopPulse c latch).chan d).arrivals = (s.chan d).arrivals
      ∧ ((s.stopPulse c latch).chan d).phase = if c = d then .recycle else (s.chan d).phase := by
  rw [State.stopPulse, State.modPulse, State.chan_modChan, chan_setPhase, chan_setPhase]
  by_cases h : c = d
  · subst h; simp [Channel.updateHeat]
  · simp [h]

theorem chan_pulseEnded (s : State) (c d : Chan) (p : Port) (tag : Byte) (cause : Cause) :
    ((s.pulseEnded c p tag cause).chan d).queue = (s.chan d).queue
      ∧ ((s.pulseEnded c p tag cause).chan d).arrivals = (s.chan d).arrivals
      ∧ ((s.pulseEnded c p tag cause).chan d).phase = if c = d then .recycle else (s.chan d).phase := by
  obtain ⟨hqueue, harrivals, hphase⟩ := chan_stopPulse s c d none
  rw [State.pulseEnded, State.modPulse, State.chan_modChan, State.chan_modEntry, State.chan_modEntry]
  by_cases h : c = d
  · subst h; simp [hqueue, harrivals, hphase]
  · simp [h, hqueue, harrivals, hphase]

/-- A stopped pulse is its owner's as before. -/
theorem pulse_stopPulse {s : State} {c : Chan} {pu : Pulse} (hpu : (s.chan c).pulse = some pu)
    (latch : Option FaultKind) :
    ∃ pu', ((s.stopPulse c latch).chan c).pulse = some pu' ∧ pu'.owned = pu.owned ∧ pu'.owner = pu.owner := by
  rw [State.stopPulse, State.modPulse, State.chan_modChan_self, chan_setPhase, if_pos rfl]
  simp [Channel.updateHeat, hpu]

theorem endPulse_of_over {s : State} {e : Entry} {pu : Pulse} (h : KickOver s e pu)
    (he : SoleIn s.table e) (hlist : s.arbiter.list = []) (cause : Cause) :
    s.endPulse e.order.channel cause none =
      (s.pulseEnded e.order.channel e.port e.order.tag cause).doAll true
        [.finish e.port e.order.tag cause.status] := by
  obtain ⟨pu', hpu', howned', howner'⟩ := pulse_stopPulse h.pulse none
  have hentry : (s.stopPulse e.order.channel none).entry e.port e.order.tag = some e := he.entry
  have hlist' : (s.stopPulse e.order.channel none).arbiter.list = [] := hlist
  have htell : (s.stopPulse e.order.channel none).tellPulseEnd e.order.channel cause =
      ([.finish e.port e.order.tag cause.status],
        s.pulseEnded e.order.channel e.port e.order.tag cause) := by
    simp only [State.tellPulseEnd, hpu', howned'.trans h.owned, howner'.trans h.owner, if_true]
    simp [State.isTrain, hentry, h.order, State.pulseEnded]
  simp only [State.endPulse, h.pulse, Option.map_some, Option.getD_some, examineIf_of_nil hlist', htell,
    if_neg (Nat.pos_iff_ne_zero.mp h.recycles)]

/-- What the kick end of a PULSE order leaves in place when it releases the follower. -/
structure Released (s t : State) (f : Entry) : Prop where
  sole : SoleIn t.table f
  time : t.time = s.time
  now : t.now = s.now
  ring : (t.port f.port).ring = (s.port f.port).ring
  queue : ∀ d, (t.chan d).queue = (s.chan d).queue
  arrivals : ∀ d, (t.chan d).arrivals = (s.chan d).arrivals
  busy : ∀ d, (t.chan d).phase.busy = (s.chan d).phase.busy

/-- The kick end of a PULSE order with a follower: the order ends DONE and the follower is released (R23, R102). -/
theorem takeKickEnd_releases {s : State} {e f : Entry} {pu : Pulse} (h : KickOver s e pu)
    (hl : Linked s.table e f) (hlist : s.arbiter.list = [])
    (hqe : ∀ q ∈ (s.chan e.order.channel).queue, q.owner ≠ .order e.port e.order.tag) :
    ∃ t : State, s.takeKickEnd e.order.channel = t.doAll true [.ready f.port f.order.tag, .takes f.port]
      ∧ Released s t f := by
  let e1 : Entry := { e with lastCause := some .complete }
  let s1 := s.pulseEnded e.order.channel e.port e.order.tag .complete
  have hl1 : Linked s1.table e1 f :=
    hl.modEntry (g := fun e => { e with lastCause := some .complete }) (fun _ => ⟨rfl, rfl⟩)
      (by simp [h.running])
  have hchan := fun d => chan_pulseEnded s e.order.channel d e.port e.order.tag .complete
  have hqe1 : ∀ q ∈ (s1.chan e.order.channel).queue, q.owner ≠ .order e.port e.order.tag := by
    rw [(hchan _).1]; exact hqe
  have hlive : e1.live = true := by simp [Entry.live, e1, h.running]
  refine ⟨s1.conclude e1 .done, ?_,
    hl1.follower.conclude hl1.apart _, conclude_time .., conclude_now .., ?_, ?_, ?_, fun d => ?_⟩
  · rw [takeKickEnd_of_over h, endPulse_of_over h hl.sole hlist]
    exact doAll_finish_releases hl1 hlive hqe1 rfl
  · rw [hl.port]; exact conclude_ring s1 e1 .done
  · simpa using fun d => (hchan d).1
  · simpa using fun d => (hchan d).2.1
  · rw [conclude_chan, (hchan d).2.2]
    by_cases hd : e.order.channel = d
    · rw [if_pos hd, ← hd, h.phase]; rfl
    · rw [if_neg hd]

/-- A released follower with its due time ahead enters SCHEDULED. -/
theorem Released.schedules {s t : State} {f : Entry} (h : Released s t f) (hl : f.live = true)
    (hr : (s.port f.port).ring.slots = []) {due : TableTime} (hd : f.order.due = some due)
    (hahead : reached s.time due = false) :
    (t.doAll true [.ready f.port f.order.tag, .takes f.port]).entry f.port f.order.tag =
      some { f with stage := .scheduled (s.now + (due - s.time).toNat) } := by
  have hrt : (t.port f.port).ring.slots = [] := by rw [h.ring, hr]
  rw [← h.time] at hahead
  rw [doAll_ready_of_ahead h.sole hl hd hahead, doAll_takes_of_empty (by exact hrt), doAll_nil, h.now, h.time]
  exact (h.sole.modEntry (f := fun e => { e with stage := .scheduled (s.now + (due - s.time).toNat) })
    ⟨rfl, rfl⟩).entry

/-- A released follower with no due time ahead joins the queue of a busy channel. -/
theorem Released.arrives {s t : State} {f : Entry} (h : Released s t f) (hl : f.live = true)
    (hr : (s.port f.port).ring.slots = [])
    (hd : ∀ due, f.order.due = some due → reached s.time due = true)
    (hb : (s.chan f.order.channel).phase.busy = true) :
    let a := (s.chan f.order.channel).arrivals
    let u := t.doAll true [.ready f.port f.order.tag, .takes f.port]
    u.entry f.port f.order.tag = some { f with stage := .queued, arrival := some a }
      ∧ (u.chan f.order.channel).queue =
        insertQueue ⟨.order f.port f.order.tag, f.order.priority, a⟩ (s.chan f.order.channel).queue := by
  intro a u
  have hrt : (t.port f.port).ring.slots = [] := by rw [h.ring, hr]
  rw [← h.time] at hd
  rw [← h.busy] at hb
  have hu : u = _ := (doAll_ready_of_reached h.sole hd true _).trans (doAll_arrive_of_busy h.sole hl hb true _)
  rw [doAll_takes_of_empty (by exact hrt), doAll_nil, h.arrivals] at hu
  rw [hu]
  refine ⟨(h.sole.modEntry (f := fun e => { e with stage := .queued, arrival := some a })
    ⟨rfl, rfl⟩).entry, ?_⟩
  simp [h.queue, a]

/-! ## The obligation -/

/-- The take of a posted order, by its chain step. -/
theorem postOrder_takes {s : State} {p : Port} {r : OrderRecord} {c : Chan} {kind : OrderKind} (hs : s.ready p)
    (hc : channelOf r.channel = some c) (hk : orderKindOf r.kind = some kind)
    (hok : (answerPostOrder p r s).status = .ok) (hr : (s.port p).ring.slots = []) {t : State}
    (ht : s.acceptOrder p (workingOrder r c kind) = t) :
    exec (.postOrder p r) s = .next (t.answered p .ok [byte ((s.port p).ring.head % 32)]) := by
  have hexec := exec_row_of_ready hs (.postOrder r)
  simp only [Command.answer, (answerPostOrder_of_ok hc hk hok).1, ht, Ring.tailSlot, hr, List.length_nil,
    Nat.add_zero] at hexec
  exact hexec

/-- Settles O31: the take is `acceptOrder_of_empty` with its four outcomes; the end of an order breaks its follower
(`doAll_finish_breaks`) or releases it (`takeKickEnd_releases`). -/
theorem takesAndChains : Obligations.TakesAndChains := by
  refine ⟨fun s p r c kind hs hc hk hok hr hq => ?_, fun s e f he hf hport hstage huniq hu hlast hr => ?_⟩
  · intro o entry tail head took answered
    have htag : s.entry p r.tag = none := (answerPostOrder_of_ok hc hk hok).2
    have ho : workingOrder r c kind = o := workingOrder_eq r c kind
    have hpost : ∀ t, s.acceptOrder p o = t → answered t := fun t ht =>
      postOrder_takes hs hc hk hok hr (ho ▸ ht)
    refine ⟨fun n hf ht => hpost _ (acceptOrder_following hr hq hf ht),
      fun hf ht habsent hfol => hpost _ (acceptOrder_broken hr hq hf ht htag habsent hfol),
      fun hf => ⟨fun due hd hahead => hpost _ (acceptOrder_scheduled hr hq hf htag hd hahead),
        fun hd hb => hpost _ (acceptOrder_arrives hr hq hf htag hd hb)⟩⟩
  · intro p
    have hfollows : f.follows e.port e.order.tag = true := by simp [Entry.follows, hport, hstage]
    have hl : Linked s.table e f :=
      { sole := SoleIn.of_unique he fun x hx => huniq x hx e he
        follower := SoleIn.of_unique hf fun x hx => huniq x hx f hf
        port := hport
        stage := hstage
        apart := Bool.eq_false_iff.mpr fun h => by
          have := hlast f hf
          rw [(Entry.is_iff.mp h).2, hfollows] at this
          cases this
        only := hu }
    refine ⟨fun hwaits hs hqe hqf => ?_, fun pu hp hrun hkind => ?_⟩
    · have hlive : e.live = true := by rcases hwaits with ⟨n, hn⟩ | ⟨n, hn⟩ <;> simp [Entry.live, hn]
      have hexec := exec_row_of_ready hs (.cancelOrder e.order.tag)
      simp only [Command.answer, answerCancelOrder_of_waiting hl.sole hwaits hr,
        doAll_finish_breaks hl hlive hlast hr hqe hqf (status := .cancelled) rfl, p] at hexec
      exact hexec
    · intro c d hc hpu howner howned hplain hcheck hdue hlength hlist hqe
      obtain ⟨t, ht, hrel⟩ := takeKickEnd_releases
        ⟨hrun, hkind, hc, hpu, howner, howned, hplain, hcheck, hdue, hlength⟩ hl hlist hqe
      have hexec := event_of_powered hp (State.takeKickEnd · c)
      have hp' : p = f.port := hport.symm
      rw [hp']
      rw [← hport] at hr
      refine ⟨fun due hd hahead => ⟨_, hexec, ?_⟩, fun hd hb => ⟨_, hexec, ?_⟩⟩
      · have := hrel.schedules hl.live hr hd hahead
        rwa [← ht] at this
      · have := hrel.arrives hl.live hr hd hb
        rwa [← ht] at this

end Sys2Proof.Machine

/-!
What every command keeps: the ranges of the registers, and the records of a channel in the states that have them.
-/

namespace Sys2Proof.Machine

/-! ## Channels -/

theorem heatAfter_le (heat : Nat) (n : Int) (t : Nat) : heatAfter heat n t ≤ Config.heatMax :=
  Nat.min_le_left _ _

@[simp] theorem getElem_mapTable {α β : Type} {n : Nat} (v : Vector α n) (f : α → β) (i : Fin n) :
    (mapTable v f)[i] = f v[i] := by
  simp [mapTable]

/-- Every channel mapped. -/
theorem State.chan_mapTable (s : State) (f : Channel → Channel) (c : Chan) :
    State.chan { s with channels := mapTable s.channels f } c = f (s.chan c) :=
  getElem_mapTable s.channels f c

/-- A claim about every channel, after a write of one. -/
theorem forall_chan_modChan {Q : Channel → Prop} {s : State} {c : Chan} {f : Channel → Channel}
    (hf : Q (s.chan c) → Q (f (s.chan c))) (h : ∀ d, Q (s.chan d)) : ∀ d, Q ((s.modChan c f).chan d) := by
  intro d
  rw [State.chan_modChan]
  split
  · exact hf (h c)
  · exact h d

/-- A change of a channel's state with a note on it. -/
theorem chan_setPhase_modChan (s : State) (c d : Chan) (ph : Phase) (g : Channel → Channel) :
    ((s.setPhase c ph).modChan c g).chan d
      = if c = d then g { (s.chan c).updateHeat s.now with phase := ph } else s.chan d := by
  rw [State.chan_modChan, chan_setPhase, chan_setPhase, if_pos rfl]
  split <;> rfl

theorem chan_tableReset (s : State) (c : Chan) :
    s.tableReset.chan c = (s.chan c).tableReset s.now :=
  getElem_mapTable s.channels _ c

theorem port_tableReset (s : State) (p : Port) : s.tableReset.port p = (s.port p).tableReset := by
  cases p <;> rfl

/-! ## The records of a channel -/

/-- A note that leaves a channel's state and records leaves them coherent. -/
theorem Channel.coherent_of_eq {a b : Channel} (hphase : b.phase = a.phase) (hpulse : b.pulse = a.pulse)
    (hfault : b.fault = a.fault) (h : a.coherent) : b.coherent := by
  unfold Channel.coherent
  rw [hphase, hpulse, hfault]
  exact h

/-- A channel without records that is OFFLINE is coherent, as every channel is at a reset (R36). -/
theorem Channel.coherent_of_reset {ch : Channel} (hphase : ch.phase = .offline) (hpulse : ch.pulse = none)
    (hfault : ch.fault = none) : ch.coherent := by
  unfold Channel.coherent
  rw [hphase, hpulse, hfault]
  exact ⟨rfl, rfl, nofun⟩

/-- No write of an event parts the records of a channel from its state. -/
theorem kept_coherent : KeptByAll State.coherent where
  ports _ _ _ h := h
  table _ _ _ h := h
  coil s c ph g _ hcoh _ h := by
    intro d
    rw [chan_setPhase_modChan]
    split
    · exact hcoh (h c)
    · exact h d
  note _ _ _ _ hcoh h := forall_chan_modChan hcoh h
  heat _ _ h := forall_chan_modChan (Channel.coherent_of_eq rfl rfl rfl) h
  list _ _ _ h := h
  reflexes _ _ h := h
  lamps _ _ _ h := h
  free _ _ h := h
  port _ _ _ h := h
  profile _ _ _ _ h := forall_chan_modChan (Channel.coherent_of_eq rfl rfl rfl) h
  shorts s h := fun c => by
    rw [State.chan_mapTable]
    exact Channel.coherent_of_eq rfl rfl rfl (h c)
  rail _ _ _ _ _ h := h
  switches _ _ h := h
  control _ _ _ h := h
  reset s _ := fun c => by
    rw [chan_tableReset]
    exact Channel.coherent_of_reset rfl rfl rfl
  pins _ _ h := h
  powerOn _ _ := reset_coherent
  powerOff _ _ := reset_coherent
  tick _ h := h

/-- Settles O57: each write of the kit keeps the records with the states (`kept_coherent`), so every command does. -/
theorem recordsStandWithTheirStates : Obligations.RecordsStandWithTheirStates :=
  fun _ _ _ hs h => kept_coherent.exec hs h

/-! ## The ranges -/

/-- Of a channel's range only its profile, its effective fold duty and its heat matter. -/
theorem Channel.inRange_of_eq {a b : Channel} (hprofile : b.profile = a.profile)
    (hfold : b.effectiveFold = a.effectiveFold) (hheat : b.heat ≤ Config.heatMax) (h : a.inRange) :
    b.inRange := by
  unfold Channel.inRange
  rw [hprofile, hfold]
  exact ⟨h.1, h.2.1, hheat⟩

/-- The clamps bring every field of a profile into its range (02, section 2.2). -/
theorem clampProfile_inRange (r : ProfileRecord) : (clampProfile r).inRange := by
  have hcooling := r.cooling.isLt
  have hceiling := r.ceiling.isLt
  have hsense := r.senseDelay.isLt
  simp only [clampProfile, Profile.inRange]
  omega

theorem PortState.tableReset_inRange (ps : PortState) : ps.tableReset.inRange :=
  inRange_default.1

theorem Channel.tableReset_inRange (now : Nat) (ch : Channel) : (ch.tableReset now).inRange :=
  Channel.inRange_of_eq (a := .default) rfl rfl (heatAfter_le ..) inRange_default.2

/-- No write of an event leaves the ranges. -/
theorem kept_inRange : KeptByAll State.inRange where
  ports _ _ hv h := ⟨fun p => (hv p).1 (h.1 p), h.2⟩
  table _ _ ht h := by
    obtain ⟨hports, hchans, htable, hrest⟩ := h
    exact ⟨hports, hchans, fun p => ht p (htable p), hrest⟩
  coil s c ph g hg _ _ h := by
    obtain ⟨hports, hchans, hrest⟩ := h
    refine ⟨hports, fun d => ?_, hrest⟩
    obtain ⟨hprofile, -, hfold, hheat, -⟩ := hg { (s.chan c).updateHeat s.now with phase := ph }
    have hself : (g { (s.chan c).updateHeat s.now with phase := ph }).inRange :=
      Channel.inRange_of_eq (a := s.chan c) hprofile hfold (hheat ▸ heatAfter_le ..) (hchans c)
    rw [chan_setPhase_modChan]
    split
    · exact hself
    · exact hchans d
  note s c g hg _ h := by
    obtain ⟨hports, hchans, hrest⟩ := h
    obtain ⟨hprofile, -, hfold, hheat, -⟩ := hg (s.chan c)
    exact ⟨hports, forall_chan_modChan
      (fun hc => Channel.inRange_of_eq hprofile hfold (hheat ▸ hc.2.2) hc) hchans, hrest⟩
  heat _ _ h := by
    obtain ⟨hports, hchans, hrest⟩ := h
    exact ⟨hports, forall_chan_modChan (Channel.inRange_of_eq rfl rfl (heatAfter_le ..)) hchans, hrest⟩
  list _ _ _ h := h
  reflexes _ _ h := h
  lamps _ _ hv h := by
    obtain ⟨hports, hchans, htable, hrail, halarm, hlamps⟩ := h
    exact ⟨hports, hchans, htable, hrail, halarm, hv hlamps⟩
  free _ _ h := h
  port _ _ hv h := ⟨fun p => hv p (h.1 p), h.2⟩
  profile s c r _ h := by
    obtain ⟨hports, hchans, hrest⟩ := h
    exact ⟨hports, forall_chan_modChan (fun hc => ⟨clampProfile_inRange r, rfl, hc.2.2⟩) hchans, hrest⟩
  shorts s h := by
    obtain ⟨hports, hchans, hrest⟩ := h
    refine ⟨hports, fun c => ?_, hrest⟩
    rw [State.chan_mapTable]
    exact hchans c
  rail _ _ _ hv hb h := by
    obtain ⟨hports, hchans, htable, -, hrest⟩ := h
    exact ⟨hports, hchans, htable, ⟨hv, hb⟩, hrest⟩
  switches _ _ h := h
  control _ _ hv h := by
    obtain ⟨hports, hchans, htable, hrail, halarm, hlamps⟩ := h
    exact ⟨hports, hchans, htable, hrail, hv halarm, hlamps⟩
  reset s h := by
    obtain ⟨-, -, -, -, halarm, -⟩ := h
    obtain ⟨-, -, -, hrail, -, hlamps⟩ := reset_inRange
    refine ⟨fun p => ?_, fun c => ?_, fun _ => Nat.zero_le _, hrail, halarm, hlamps⟩
    · rw [port_tableReset]; exact PortState.tableReset_inRange _
    · rw [chan_tableReset]; exact Channel.tableReset_inRange _ _
  pins _ _ h := h
  powerOn _ _ := reset_inRange
  powerOff _ _ := reset_inRange
  tick _ h := h

/-- Settles O56: each write of the kit stays in the ranges (`kept_inRange`), so every command does. -/
theorem rangesAreKept : Obligations.RangesAreKept :=
  fun _ _ _ hs h => kept_inRange.exec hs h

end Sys2Proof.Machine

/-!
Heat against the ceiling: a kick that passes the kick test, a hold up to its fold time, and FOLD.
-/

namespace Sys2Proof.Machine

/-! ## The heat after some ticks -/

theorem heatAfter_le_of {heat c : Nat} {n : Int} {t : Nat} (h : (heat : Int) + n * t ≤ c) :
    heatAfter heat n t ≤ c :=
  (Nat.min_le_right _ _).trans (Int.toNat_le.mpr h)

/-- At a net rate of 0 or below heat does not rise (R42). -/
theorem heatAfter_le_self {heat : Nat} {n : Int} (hn : n ≤ 0) (t : Nat) : heatAfter heat n t ≤ heat := by
  have h : n * t ≤ 0 := Int.mul_nonpos_of_nonpos_of_nonneg hn (Int.natCast_nonneg t)
  exact heatAfter_le_of (by omega)

/-- At a net rate that is not negative, a bound on the heat at one tick holds at every tick before it. -/
theorem heatAfter_le_of_later {heat c : Nat} {n : Int} {t length : Nat} (hn : 0 ≤ n) (ht : t ≤ length)
    (h : (heat : Int) + n * length ≤ c) : heatAfter heat n t ≤ c := by
  have hmul : n * t ≤ n * length := Int.mul_le_mul_of_nonneg_left (by exact_mod_cast ht) hn
  exact heatAfter_le_of (by omega)

/-! ## The kick -/

/-- A kick that passes the kick test stays at or under the ceiling at every tick of it (R46). -/
theorem heatAfter_kick_le {pr : Profile} {heat length t : Nat} (hheat : heat ≤ pr.ceiling)
    (hfits : pr.kickFits heat length = true) (ht : t ≤ length) :
    heatAfter heat pr.kickRate t ≤ pr.ceiling := by
  simp only [Profile.kickFits, Profile.excess, Bool.or_eq_true, decide_eq_true_eq] at hfits
  rcases le_total pr.kickRate 0 with hn | hn
  · exact (heatAfter_le_self hn t).trans hheat
  · rcases hfits with hcool | hroom
    · exact (heatAfter_le_self hcool t).trans hheat
    · exact heatAfter_le_of_later hn ht (by have := of_decide_eq_true hroom; omega)

/-- The whole kick time is the kick of a fraction of 16 (R22). -/
theorem Profile.kickLength_full (pr : Profile) : pr.kickLength 16 = pr.kickTime := by
  simp only [Profile.kickLength, ceilDiv]; omega

/-- The kick length is the least that is not short of the fraction (R22). -/
theorem Profile.kickLength_least (pr : Profile) (k : Nat) :
    pr.kickTime * k ≤ 16 * pr.kickLength k ∧ (0 < pr.kickTime * k →
      16 * (pr.kickLength k - 1) < pr.kickTime * k ∧ 1 ≤ pr.kickLength k) := by
  simp only [Profile.kickLength, ceilDiv]; omega

/-! ## The hold and the fold -/

/-- A fold time is that of a net rate above 0: the largest number of ticks that keeps the hold at or under the
ceiling (R50). -/
theorem Profile.foldTime_some {pr : Profile} {heat fold : Nat} (hheat : heat ≤ pr.ceiling)
    (h : pr.foldTime heat = some fold) :
    0 < pr.netRateAt pr.holdDraw
      ∧ (heat : Int) + pr.netRateAt pr.holdDraw * fold ≤ pr.ceiling
      ∧ (pr.ceiling : Int) < heat + pr.netRateAt pr.holdDraw * ((fold + 1 : Nat) : Int) := by
  simp only [Profile.foldTime] at h
  split at h
  · cases h
  · rename_i hn
    rw [not_le] at hn
    obtain ⟨n, hrate⟩ := Int.eq_ofNat_of_zero_le hn.le
    obtain ⟨room, hroom⟩ := Nat.exists_eq_add_of_le hheat
    have hfold : room / n = fold := by
      rw [hrate, hroom] at h
      simpa using h
    have hn' : 0 < n := by omega
    have hdiv := Nat.div_add_mod room n
    have hmod := Nat.mod_lt room hn'
    rw [hfold] at hdiv
    rw [hrate, hroom]
    refine ⟨by omega, ?_, ?_⟩
    · norm_cast; omega
    · norm_cast; rw [Nat.mul_add, Nat.mul_one]; omega

theorem Profile.foldTime_none {pr : Profile} {heat : Nat} (h : pr.foldTime heat = none) :
    pr.netRateAt pr.holdDraw ≤ 0 := by
  simp only [Profile.foldTime] at h
  split at h
  · assumption
  · cases h

/-- The largest number that meets a condition meets it, unless it is 0. -/
theorem largestUpTo_spec (ok : Nat → Bool) (n : Nat) :
    largestUpTo ok n = 0 ∨ ok (largestUpTo ok n) = true := by
  induction n with
  | zero => exact .inl rfl
  | succ n ih =>
    rw [largestUpTo]
    split
    · exact .inr ‹_›
    · exact ih

/-- The net rate of FOLD is below 0: the effective fold duty is chosen so, and a duty of 0 draws nothing (R40). -/
theorem Profile.netRate_fold_neg {pr : Profile} (hcooling : 1 ≤ pr.cooling) :
    pr.netRateAt (pr.drawAt pr.foldDutyInForce) < 0 := by
  have hspec := largestUpTo_spec (fun d => pr.drawAt d * pr.heatFactor < pr.cooling) (min pr.foldDuty pr.holdDuty)
  change pr.foldDutyInForce = 0 ∨ _ at hspec
  rcases hspec with hzero | hok
  · have hdraw : pr.drawAt 0 = 0 := by simp [Profile.drawAt, ceilDiv]
    rw [hzero, hdraw, Profile.netRateAt]
    omega
  · have hlt : pr.drawAt pr.foldDutyInForce * pr.heatFactor < pr.cooling := of_decide_eq_true hok
    rw [Profile.netRateAt]
    omega

/-- Settles O23: `heatAfter_kick_le` for the kick, `kickLength_least` for its length, `foldTime_some` for the hold and
`netRate_fold_neg` for FOLD. -/
theorem kickAndHoldStayUnderTheCeiling : Obligations.KickAndHoldStayUnderTheCeiling := by
  refine ⟨⟨fun pr heat length t _ hheat hfits ht => heatAfter_kick_le hheat hfits ht,
      fun pr k hr hk1 hk16 => ?_⟩,
    fun pr heat hr hheat => ⟨fun fold t h ht => ?_, fun fold h hmax => ?_,
      fun h t => heatAfter_le_self (Profile.foldTime_none h) t, fun t => ?_⟩⟩
  · obtain ⟨⟨htime1, htime⟩, -⟩ := hr
    obtain ⟨hcover, hleast⟩ := pr.kickLength_least k
    obtain ⟨hshort, hone⟩ := hleast (Nat.mul_pos htime1 hk1)
    have hmul : pr.kickTime * k ≤ pr.kickTime * 16 := Nat.mul_le_mul_left _ hk16
    exact ⟨hone, by omega, pr.kickLength_full, hshort, hcover⟩
  · obtain ⟨hrate, hroom, -⟩ := Profile.foldTime_some hheat h
    exact heatAfter_le_of_later hrate.le ht hroom
  · obtain ⟨-, -, hpast⟩ := Profile.foldTime_some hheat h
    have hnat : pr.ceiling < ((heat : Int) + pr.netRateAt pr.holdDraw * ((fold + 1 : Nat) : Int)).toNat := by
      omega
    exact lt_min hmax hnat
  · obtain ⟨-, -, -, -, -, ⟨hcooling, -⟩, -⟩ := hr
    exact heatAfter_le_self (Profile.netRate_fold_neg hcooling).le t

end Sys2Proof.Machine

/-!
Places in the admission list and in the channel queues.
-/

namespace Sys2Proof.Machine

theorem insertMember_eq (m : Member) (l : List Member) :
    insertMember m l =
      l.takeWhile (fun x => decide (m.priority ≤ x.priority)) ++
        m :: l.dropWhile fun x => decide (m.priority ≤ x.priority) := by
  induction l with
  | nil => rfl
  | cons x xs ih =>
    rw [insertMember]
    by_cases h : m.priority ≤ x.priority
    · rw [if_neg (not_lt.mpr h), ih]
      simp [h]
    · rw [if_pos (not_le.mp h)]
      simp [h]

theorem insertMember_perm (m : Member) (l : List Member) : (insertMember m l).Perm (m :: l) := by
  rw [insertMember_eq]
  refine List.perm_middle.trans (.cons m ?_)
  rw [List.takeWhile_append_dropWhile]

theorem insertMember_sorted (m : Member) {l : List Member} (h : l.Pairwise fun a b => b.priority ≤ a.priority) :
    (insertMember m l).Pairwise fun a b => b.priority ≤ a.priority := by
  induction l with
  | nil => simp [insertMember]
  | cons x xs ih =>
    obtain ⟨hx, hxs⟩ := List.pairwise_cons.mp h
    rw [insertMember]
    split
    · rename_i hlt
      refine List.pairwise_cons.mpr ⟨fun y hy => ?_, h⟩
      rcases List.mem_cons.mp hy with rfl | hy
      · exact hlt.le
      · exact (hx y hy).trans hlt.le
    · rename_i hle
      refine List.pairwise_cons.mpr ⟨fun y hy => ?_, ih hxs⟩
      rcases List.mem_cons.mp ((insertMember_perm m xs).mem_iff.mp hy) with rfl | hy
      · exact not_lt.mp hle
      · exact hx y hy

theorem insertQueue_perm (q : QueueMember) (l : List QueueMember) : (insertQueue q l).Perm (q :: l) := by
  induction l with
  | nil => exact .refl _
  | cons x xs ih =>
    rw [insertQueue]
    split
    · exact .refl _
    · exact (List.Perm.cons x ih).trans (.swap q x xs)

/-- The order of a channel queue: a member stands behind those of higher priority, and at equal priority behind
those that arrived no later (R32). -/
def QueueMember.before (a b : QueueMember) : Prop :=
  b.priority < a.priority ∨ (a.priority = b.priority ∧ a.arrival ≤ b.arrival)

theorem QueueMember.before_trans {a b c : QueueMember} (h : a.before b) (h' : b.before c) : a.before c := by
  unfold QueueMember.before at *; omega

theorem QueueMember.before_of_ahead {a b : QueueMember} (h : a.ahead b = true) : a.before b := by
  simp only [QueueMember.ahead, Bool.or_eq_true, Bool.and_eq_true, decide_eq_true_eq, beq_iff_eq] at h
  unfold QueueMember.before; omega

theorem QueueMember.before_of_not_ahead {a b : QueueMember} (h : ¬a.ahead b = true) : b.before a := by
  simp only [QueueMember.ahead, Bool.or_eq_true, Bool.and_eq_true, decide_eq_true_eq, beq_iff_eq] at h
  unfold QueueMember.before; omega

theorem insertQueue_sorted (q : QueueMember) {l : List QueueMember} (h : l.Pairwise QueueMember.before) :
    (insertQueue q l).Pairwise QueueMember.before := by
  induction l with
  | nil => simp [insertQueue]
  | cons x xs ih =>
    obtain ⟨hx, hxs⟩ := List.pairwise_cons.mp h
    rw [insertQueue]
    split
    · rename_i hahead
      have hqx := QueueMember.before_of_ahead hahead
      refine List.pairwise_cons.mpr ⟨fun y hy => ?_, h⟩
      rcases List.mem_cons.mp hy with rfl | hy
      · exact hqx
      · exact QueueMember.before_trans hqx (hx y hy)
    · rename_i hbehind
      refine List.pairwise_cons.mpr ⟨fun y hy => ?_, ih hxs⟩
      rcases List.mem_cons.mp ((insertQueue_perm q xs).mem_iff.mp hy) with rfl | hy
      · exact QueueMember.before_of_not_ahead hbehind
      · exact hx y hy

/-- Settles O26: each insertion puts its member between those it must not pass and those it must (`insertMember_eq`,
`insertMember_sorted`, `insertQueue_sorted`). -/
theorem placesInTheQueues : Obligations.PlacesInTheQueues :=
  ⟨insertMember_eq, fun m _ h => insertMember_sorted m h,
    fun q l h => ⟨insertQueue_sorted q h, insertQueue_perm q l⟩⟩

end Sys2Proof.Machine

/-!
SUPPORT. Writes of one table that agree on what they find, and what the start of a short check writes.
-/

namespace Sys2Proof.Machine

/-! ## Writes that agree -/

/-- Two changes of a channel that agree on the channel held are one. -/
theorem State.modChan_congr {s : State} {c : Chan} {f g : Channel → Channel} (h : f (s.chan c) = g (s.chan c)) :
    s.modChan c f = s.modChan c g := by
  unfold State.chan at h
  simp only [State.modChan, h]

theorem State.modReflex_congr {s : State} {x : ReflexNo} {f g : Reflex → Reflex}
    (h : f (s.reflexAt x) = g (s.reflexAt x)) : s.modReflex x f = s.modReflex x g := by
  unfold State.reflexAt at h
  simp only [State.modReflex, h]

theorem State.modSwitch_congr {s : State} {n : SwitchNo} {f g : Switch → Switch}
    (h : f (s.switchAt n) = g (s.switchAt n)) : s.modSwitch n f = s.modSwitch n g := by
  unfold State.switchAt at h
  simp only [State.modSwitch, h]

/-! ## The short check -/

theorem railOn_iff (s : State) : s.railOn = true ↔ s.control.rail = .on := beq_iff_eq

/-- Whether the short check runs in a state of the channel (R31). -/
theorem Phase.isWatched_iff (ph : Phase) : ph.isWatched = true ↔ ph = .idle ∨ ph = .faulted ∨ ph = .offline := by
  cases ph <;> simp [Phase.isWatched]

/-- The short check of a channel after a start: it runs while the rail is ON and SENSE high (R31). -/
def State.shortStarted (s : State) (c : Chan) : Option Nat :=
  if s.control.rail = .on ∧ s.pins.sense[c] = true then some (s.now + 50) else (s.chan c).shortAt

theorem startShort_of_watched {s : State} {c : Chan} (h : (s.chan c).phase.isWatched = true) :
    s.startShort c = s.modChan c fun ch => { ch with shortAt := s.shortStarted c } := by
  have hon := railOn_iff s
  unfold State.startShort State.shortStarted
  by_cases hs : s.control.rail = .on ∧ s.pins.sense[c] = true
  · rw [if_pos hs, if_pos (by simp [hon.mpr hs.1, hs.2, h])]
    rfl
  · rw [if_neg hs, if_neg (by simpa [h, hon] using hs)]
    exact (State.modChan_of_eq rfl).symm

theorem startShort_of_unwatched {s : State} {c : Chan} (h : (s.chan c).phase.isWatched = false) :
    s.startShort c = s := by
  simp [State.startShort, h]

theorem startShort_of_low {s : State} {c : Chan} (h : s.pins.sense[c] = false) : s.startShort c = s :=
  if_neg fun hon => by
    simp only [Bool.and_eq_true] at hon
    obtain ⟨⟨-, hsense⟩, -⟩ := hon
    exact Bool.false_ne_true (h.symm.trans hsense)

end Sys2Proof.Machine

/-!
The monitored inputs.
-/

namespace Sys2Proof.Machine

theorem exec_switchRawChange {s : State} {n : SwitchNo} {high : Bool} (hp : s.powered = true)
    (hne : s.pins.switch[n] ≠ high) :
    exec (.switchRawChange n high) s = .next (s.rawChange n high).decideLines := by
  simp only [exec, execSwitchRawChange, if_neg hne, if_pos hp]

theorem exec_senseChange {s : State} {c : Chan} {high : Bool} (hp : s.powered = true)
    (hne : s.pins.sense[c] ≠ high) :
    exec (.senseChange c high) s = .next (s.takeSense c high).decideLines := by
  simp only [exec, execSenseChange, if_neg hne, if_pos hp]

theorem exec_railokChange {s : State} {high : Bool} (hp : s.powered = true) (hne : s.pins.railok ≠ high) :
    exec (.railokChange high) s = .next (s.takeRailok high).decideLines := by
  simp only [exec, execRailokChange, if_neg hne, if_pos hp]

/-- A raw change back to the debounced state abandons the debounce (R110). -/
theorem rawChange_back {s : State} {n : SwitchNo} {high : Bool}
    (h : ((s.switchAt n).closedHigh == high) = (s.switchAt n).closed) :
    s.rawChange n high = { s with pins := { s.pins with switch := s.pins.switch.set n high } }.modSwitch n
      fun sw => { sw with debounceAt := none } :=
  if_pos (by simp [rawClosed, h])

/-- A raw change away from the debounced state leaves a debounce that runs (R110). -/
theorem rawChange_away_running {s : State} {n : SwitchNo} {high : Bool}
    (h : ((s.switchAt n).closedHigh == high) ≠ (s.switchAt n).closed) (hrun : (s.switchAt n).debounceAt ≠ none) :
    s.rawChange n high = { s with pins := { s.pins with switch := s.pins.switch.set n high } } := by
  have hc : ¬(rawClosed (s.switchAt n).closedHigh high == (s.switchAt n).closed) = true := by
    simpa [rawClosed] using h
  obtain ⟨expiry, he⟩ := Option.ne_none_iff_exists'.mp hrun
  simp only [State.rawChange, if_neg hc, he]

/-- A raw change away from the debounced state starts the debounce if none runs (R110). -/
theorem rawChange_away_starts {s : State} {n : SwitchNo} {high : Bool}
    (h : ((s.switchAt n).closedHigh == high) ≠ (s.switchAt n).closed) (hnone : (s.switchAt n).debounceAt = none)
    (htime : 0 < (s.switchAt n).debounceTime) :
    s.rawChange n high = { s with pins := { s.pins with switch := s.pins.switch.set n high } }.modSwitch n
      fun sw => { sw with debounceAt := some (s.now + (s.switchAt n).debounceTime) } := by
  have hc : ¬(rawClosed (s.switchAt n).closedHigh high == (s.switchAt n).closed) = true := by
    simpa [rawClosed] using h
  simp only [State.rawChange, if_neg hc, hnone, if_neg (Nat.pos_iff_ne_zero.mp htime)]
  exact State.modSwitch_congr rfl

/-- A rise of SENSE while the rail is ON starts the short check of a watched channel (R31). -/
theorem takeSense_rise {s : State} {c : Chan} (hrail : s.control.rail = .on) :
    s.takeSense c true =
      if (s.chan c).phase = .idle ∨ (s.chan c).phase = .faulted ∨ (s.chan c).phase = .offline then
        { s with pins := { s.pins with sense := s.pins.sense.set c true } }.modChan c fun ch =>
          { ch with shortAt := some (s.now + 50) }
      else { s with pins := { s.pins with sense := s.pins.sense.set c true } } := by
  let s1 : State := { s with pins := { s.pins with sense := s.pins.sense.set c true } }
  have hstart : s.takeSense c true = s1.startShort c := rfl
  have hsense : s1.pins.sense[c] = true := Vector.getElem_set_self ..
  rw [hstart]
  by_cases hw : (s.chan c).phase.isWatched = true
  · have hshort : s1.shortStarted c = some (s.now + 50) := if_pos ⟨hrail, hsense⟩
    rw [startShort_of_watched (s := s1) hw, if_pos ((Phase.isWatched_iff _).mp hw), hshort]
  · rw [startShort_of_unwatched (s := s1) (Bool.eq_false_iff.mpr hw),
      if_neg (fun h => hw ((Phase.isWatched_iff _).mpr h))]

/-- A fall of SENSE abandons the short check (R31). -/
theorem takeSense_fall {s : State} {c : Chan} (hlate : s.control.lateShorts = []) :
    s.takeSense c false =
      { s with pins := { s.pins with sense := s.pins.sense.set c false } }.modChan c fun ch =>
        { ch with shortAt := none } := by
  have hcontrol : { s.control with lateShorts := s.control.lateShorts.filter (· != c) } = s.control := by
    have hfilter : s.control.lateShorts.filter (· != c) = s.control.lateShorts := by rw [hlate]; rfl
    rw [hfilter]
  simp only [State.takeSense, Bool.false_eq_true, if_false, hcontrol]
  rfl

/-- A fall of RAILOK starts the rail-loss interval while the rail is ON (R136). -/
theorem takeRailok_fall (s : State) :
    s.takeRailok false =
      { s with
        pins := { s.pins with railok := false }
        control :=
          if s.control.rail = .on then { s.control with railLossAt := some (s.now + 20) } else s.control } := by
  by_cases h : s.control.rail = .on
  · simp [State.takeRailok, State.railOn, h, Config.railLossTicks]
  · simp [State.takeRailok, State.railOn, h]

/-- A rise of RAILOK abandons it (R136). -/
theorem takeRailok_rise {s : State} (hlate : s.control.lateRailLoss = false) :
    s.takeRailok true =
      { s with
        pins := { s.pins with railok := true }
        control := { s.control with railLossAt := none } } := by
  simp only [State.takeRailok, if_true, ← hlate]

/-- Settles O16: a change of a switch input, a SENSE or RAILOK acts on its own interval, by the lemmas above. -/
theorem monitoredInputs : Obligations.MonitoredInputs := by
  refine ⟨fun s n high hp hne => ?_, fun s c hp hrail => ⟨fun hlow => ?_, fun hhigh hlate => ?_⟩,
    fun s hp => ⟨fun hhigh => ?_, fun hlow hlate => ?_⟩⟩
  · intro sw time s1
    rw [exec_switchRawChange hp hne]
    exact ⟨fun hback => by rw [rawChange_back hback],
      fun haway hrun => by rw [rawChange_away_running haway hrun],
      fun haway hnone htime => by rw [rawChange_away_starts haway hnone htime]; rfl⟩
  · rw [exec_senseChange hp (by simp [hlow]), takeSense_rise hrail]
  · rw [exec_senseChange hp (by simp [hhigh]), takeSense_fall hlate]
  · rw [exec_railokChange hp (by simp [hhigh]), takeRailok_fall]
  · rw [exec_railokChange hp (by simp [hlow]), takeRailok_rise hlate]

end Sys2Proof.Machine

/-!
SUPPORT. Changes of a channel's state that move no units, and an update of the heat made twice at one moment. And
the settings that the order pipeline, the arbiter and the pulses never write.
-/

namespace Sys2Proof.Machine

/-! ## Heat -/

theorem heatAfter_zero {heat : Nat} (h : heat ≤ Config.heatMax) (n : Int) : heatAfter heat n 0 = heat := by
  simp [heatAfter, h]

/-- The heat of a channel whose heat was brought up to date at this moment. -/
theorem heatNow_of_fresh {ch : Channel} {now : Nat} (hat : ch.heatAt = now) (h : ch.heat ≤ Config.heatMax) :
    ch.heatNow now = ch.heat := by
  rw [Channel.heatNow, hat, Nat.sub_self, heatAfter_zero h]

theorem updateHeat_of_fresh {ch : Channel} {now : Nat} (hat : ch.heatAt = now) (h : ch.heat ≤ Config.heatMax) :
    ch.updateHeat now = ch := by
  rw [Channel.updateHeat, heatNow_of_fresh hat h, ← hat]

/-! ## Draws -/

theorem Channel.drawIn_of_not_live (ch : Channel) {ph : Phase} (h : ph.isLive = false) : ch.drawIn ph = 0 := by
  cases ph <;> first | rfl | cases h

/-- A change between two states that draw nothing moves no units (R57). -/
theorem setPhase_of_rest {s : State} {c : Chan} {ph : Phase} (h : (s.chan c).phase.isLive = false)
    (h' : ph.isLive = false) :
    s.setPhase c ph = s.modChan c fun ch => { ch.updateHeat s.now with phase := ph } := by
  simp only [State.setPhase, Channel.draw, Channel.drawIn_of_not_live _ h, Channel.drawIn_of_not_live _ h',
    Arbiter.swapDraw]
  rfl

/-! ## Numbers of a command -/

theorem channelOf_byte (c : Chan) : channelOf (byte c.val) = some c := by
  have hlt := c.isLt
  have hnat : (byte c.val).toNat = c.val := by
    simp only [byte, BitVec.toNat_ofNat]
    omega
  simp only [channelOf, hnat, dif_pos hlt]

theorem channelOf_none {b : Byte} (h : 24 ≤ b.toNat) : channelOf b = none :=
  dif_neg (by omega)

/-! ## The settings -/

/-- What the order pipeline, the arbiter, the pulses and the lamps leave in place: the supply, the pins, the clock,
the profiles, the budget and the reserve, the switches and the mode controller. -/
structure State.SameSettings (t s : State) : Prop where
  powered : t.powered = s.powered
  pins : t.pins = s.pins
  now : t.now = s.now
  profile : ∀ c, (t.chan c).profile = (s.chan c).profile
  budget : t.arbiter.budget = s.arbiter.budget
  reserve : t.arbiter.reserve = s.arbiter.reserve
  switches : t.switches = s.switches
  control : t.control = s.control

theorem State.SameSettings.refl (s : State) : s.SameSettings s :=
  ⟨rfl, rfl, rfl, fun _ => rfl, rfl, rfl, rfl, rfl⟩

theorem profile_modChan {s : State} {c : Chan} {f : Channel → Channel}
    (hf : (f (s.chan c)).profile = (s.chan c).profile) (d : Chan) :
    ((s.modChan c f).chan d).profile = (s.chan d).profile := by
  rw [State.chan_modChan]
  split
  · rename_i hd
    rw [hf, hd]
  · rfl

theorem State.SameSettings.modChan {t s : State} (h : t.SameSettings s) (c : Chan) {f : Channel → Channel}
    (hf : (f (t.chan c)).profile = (t.chan c).profile) : (t.modChan c f).SameSettings s :=
  { h with profile := fun d => (profile_modChan hf d).trans (h.profile d) }

theorem kept_sameSettings (s : State) : KeptCore (State.SameSettings · s) where
  ports _ _ _ h := { h with }
  table _ _ _ h := { h with }
  coil t c ph g hg _ _ h := by
    have hphase : (t.setPhase c ph).SameSettings s :=
      { h.modChan c (f := fun ch => { ch.updateHeat t.now with phase := ph }) rfl with }
    exact hphase.modChan c (hg _).1
  note _ c _ hg _ h := h.modChan c (hg _).1
  heat _ c h := h.modChan c rfl
  list _ _ _ h := { h with }
  reflexes _ _ h := { h with }
  lamps _ _ _ h := { h with }
  free _ _ h := { h with }

/-- All that a change of mode does after the rail is made of the writes of `KeptCore` (R129 to R132). -/
theorem KeptCore.changeMode {P : State → Prop} (K : KeptCore P) (s : State) (mode : Mode)
    (h : P ({ s with control := { s.control with mode := mode } }.railFor s.control.mode mode)) :
    P (s.changeMode mode) := by
  have h2 := KeptCore.foldl (fun _ p h => K.markRing (abortMark mode) p h) (abortedPorts mode) _ h
  have h3 := KeptCore.foldl (fun _ p h => K.abortPort (abortMark mode).status p h) (abortedPorts mode) _ h2
  have h4 := K.doAll false ((abortedPorts mode).map Work.takes) h3
  have h5 := KeptCore.foldl (fun _ x h => K.reflexModeChange mode x h) (allFin 16) _ h4
  have h6 := K.offerAndExamine s.arbiter.joins (K.cutLive h5)
  unfold State.changeMode
  refine K.setModeEdges ?_
  dsimp only
  split
  · exact K.redriveAll _ h6
  · exact h6

theorem changeMode_sameSettings (s : State) (mode : Mode) :
    (s.changeMode mode).SameSettings
      ({ s with control := { s.control with mode := mode } }.railFor s.control.mode mode) :=
  (kept_sameSettings _).changeMode s mode (.refl _)

theorem railOff_profile (s : State) (mode : Mode) (c : Chan) :
    ((s.railOff mode).chan c).profile = (s.chan c).profile := by
  have h := getElem_mapTable s.channels (fun ch : Channel => { ch with shortAt := none }) c
  exact (congrArg Channel.profile h :)

theorem changeMode_modeEdge (s : State) (mode : Mode) (p : Port) :
    ((s.changeMode mode).port p).attention.modeEdge = true := by
  unfold State.changeMode
  cases p <;> rfl

theorem port_decideLines (s : State) (p : Port) :
    s.decideLines.port p = (s.port p).decideLine s.control.mode := by cases p <;> rfl

end Sys2Proof.Machine

/-!
READ CHANNEL and CLEAR FAULT.
-/

namespace Sys2Proof.Machine

/-- Settles O46: the commands are `exec_row_of_ready`; the state a cleared fault leads to draws nothing, so that it is
a write of the channel alone (`setPhase_of_rest`). -/
theorem channelReadAndClear : Obligations.ChannelReadAndClear := by
  intro s p b hs
  have hread := exec_row_of_ready hs (.readChannel b)
  have hprofile := exec_row_of_ready hs (.readProfile b)
  have hclear := exec_row_of_ready hs (.clearFault b)
  simp only [Command.answer] at hread hprofile hclear
  refine ⟨fun hb => ?_, fun hp => ?_, fun hp hb => ?_, fun c hb => ?_⟩
  · have hc := channelOf_none hb
    simp only [answerReadChannel, answerReadProfile, hc] at hread hprofile
    exact ⟨hread, hprofile⟩
  · rw [answerClearFault, if_pos hp] at hclear
    exact hclear
  · rw [answerClearFault, if_neg hp, channelOf_none hb] at hclear
    exact hclear
  · have hc : channelOf b = some c := hb ▸ channelOf_byte c
    refine ⟨?_, fun hp hphase => ?_, fun hp hphase => ?_⟩
    · simp only [answerReadChannel, hc] at hread
      exact hread
    · have hne : ((s.chan c).phase == .faulted) = false := beq_eq_false_iff_ne.mpr hphase
      simp only [answerClearFault, if_neg hp, hc, hne, Bool.false_eq_true, if_false] at hclear
      exact hclear
    · have hrest : (if (s.chan c).profile.enabled then Phase.idle else Phase.offline).isLive = false := by
        split <;> rfl
      have hwrite := setPhase_of_rest (s := s) (c := c) (by rw [hphase]; rfl) hrest
      simp only [answerClearFault, if_neg hp, hc, hphase, beq_self_eq_true, if_true, hwrite,
        State.modChan_modChan] at hclear
      refine hclear.trans ?_
      rw [State.modChan_congr]
      rfl

end Sys2Proof.Machine

/-!
The three causes of a table alarm, and the rail that turns ON.
-/

namespace Sys2Proof.Machine

/-- The settings with which ALARM is entered: the rail OFF, the cause in a fresh record (R134, R138). -/
theorem raiseAlarm_enters {s : State} {cause : AlarmCause} (h : s.control.mode ≠ .alarm) :
    let t := s.raiseAlarm cause
    t.control.mode = .alarm ∧ t.control.rail = .off ∧ t.control.alarm = some ⟨cause, s.time, none, 0⟩
      ∧ (∀ p, (t.port p).attention.modeEdge = true) ∧ ∀ c, (t.chan c).profile = (s.chan c).profile := by
  intro t
  let s1 : State :=
    { s with control := { s.control with alarm := some ⟨cause, s.time, none, 0⟩ } }
  have ht : t = s1.changeMode .alarm := if_neg (by simpa using h)
  have hsame := changeMode_sameSettings s1 .alarm
  rw [← ht] at hsame
  refine ⟨by rw [hsame.control]; rfl, by rw [hsame.control]; rfl, by rw [hsame.control]; rfl,
    fun p => ht ▸ changeMode_modeEdge s1 .alarm p, fun c => (hsame.profile c).trans (railOff_profile _ .alarm c)⟩

/-- A row whose event raises an alarm. -/
theorem exec_alarmed {s s1 : State} {act : State → State} {cause : AlarmCause} (hp : s.powered = true)
    (hact : act s = s1.raiseAlarm cause) (hmode : s1.control.mode ≠ .alarm) (htime : s1.time = s.time)
    (hprofile : ∀ c, (s1.chan c).profile = (s.chan c).profile) :
    ∃ t, event act s = .next t ∧ t.control.mode = .alarm ∧ t.control.rail = .off
      ∧ railEnable t = false ∧ t.control.alarm = some ⟨cause, s.time, none, 0⟩
      ∧ (∀ p, (t.port p).attention.modeEdge = true)
      ∧ ∀ c, (t.chan c).profile = (s.chan c).profile := by
  obtain ⟨hm, hrail, halarm, hedge, hprof⟩ := raiseAlarm_enters (cause := cause) hmode
  refine ⟨_, event_of_powered hp act, ?_⟩
  rw [hact]
  refine ⟨hm, hrail, by simp [railEnable, hrail], by rw [← htime]; exact halarm, fun p => ?_,
    fun c => (hprof c).trans (hprofile c)⟩
  rw [port_decideLines]
  exact hedge p

/-- The rail turns ON with no SENSE high and no member listed: nothing starts and nothing is granted (R66, R137). -/
theorem railBecomesOn_quiet {s : State} (hlist : s.arbiter.list = []) (hlow : ∀ c : Chan, s.pins.sense[c] = false) :
    s.railBecomesOn = { s with control := { s.control with rail := .on } } := by
  have hstart : ∀ (l : List Chan) (t : State), t.pins = s.pins → l.foldl State.startShort t = t := by
    intro l
    induction l with
    | nil => exact fun _ _ => rfl
    | cons c l ih =>
      intro t ht
      rw [List.foldl_cons, startShort_of_low (by rw [ht]; exact hlow c), ih t ht]
  rw [State.railBecomesOn, hstart _ _ (by rfl), State.examine]
  simp only [hlist, examineFrom]

/-- Settles O41: each expiry raises its alarm (`exec_alarmed`), or turns a quiet rail ON (`railBecomesOn_quiet`). -/
theorem alarmsAndTheRail : Obligations.AlarmsAndTheRail := by
  refine ⟨fun s hp hmode => ⟨fun c expiry hat hle => ?_, fun expiry hat hle => ?_,
    fun expiry hrail hle hlow => ?_⟩, fun s expiry hp hrail hle hok hlist hlow => ?_⟩
  · have hdue : s.expired (s.chan c).shortAt = true := by simp [State.expired, hat, hle]
    exact exec_alarmed (act := (State.takeShortCheck · c)) hp (if_pos hdue) hmode rfl
      (profile_modChan rfl)
  · have hdue : s.expired s.control.railLossAt = true := by simp [State.expired, hat, hle]
    exact exec_alarmed (act := State.takeRailLoss) hp (if_pos hdue) hmode rfl fun _ => rfl
  · have hdue : s.settleDue = true := by simp [State.settleDue, hrail, hle]
    refine exec_alarmed (act := State.takeSettle) hp (?_ : s.takeSettle = s.raiseAlarm .railNoRise) hmode rfl
      fun _ => rfl
    simp [State.takeSettle, hdue, hlow]
  · have hdue : s.settleDue = true := by simp [State.settleDue, hrail, hle]
    refine (event_of_powered hp State.takeSettle).trans ?_
    simp only [State.takeSettle, hdue, hok, if_true, railBecomesOn_quiet hlist hlow]

end Sys2Proof.Machine

/-!
SUPPORT. The end of a pulse, as a write of its channel and the units in use.
-/

namespace Sys2Proof.Machine

/-! ## Units and gates -/

/-- The state with other units in use. -/
def State.withUnits (s : State) (units : Nat) : State :=
  { s with arbiter := { s.arbiter with units := units } }

@[simp] theorem State.chan_withUnits (s : State) (units : Nat) (c : Chan) :
    (s.withUnits units).chan c = s.chan c := rfl

/-- A change of a channel's state, as a write of the channel and the units in use (R15, R57). -/
theorem setPhase_eq (s : State) (c : Chan) (ph : Phase) :
    s.setPhase c ph =
      (s.withUnits (s.arbiter.units + (s.chan c).drawIn ph - (s.chan c).draw)).modChan c fun ch =>
        { ch.updateHeat s.now with phase := ph } := rfl

theorem gateSixteenths_of_kick {s : State} {c : Chan} (hp : s.powered = true) (h : (s.chan c).phase = .kick) :
    gateSixteenths s c = 16 := by
  simp [gateSixteenths, hp, h]

theorem gateSixteenths_of_recycle {s : State} {c : Chan} (h : (s.chan c).phase = .recycle) :
    gateSixteenths s c = 0 := by
  simp [gateSixteenths, h]

/-! ## A pulse that stops -/

/-- The record of a pulse that has stopped (R25, R27, R28). -/
def Pulse.stopped (pu : Pulse) (now : Nat) (latch : Option FaultKind) : Pulse :=
  { pu with
    latched := (latch.map fun k => (k, now)).or pu.latched
    openCheck :=
      if pu.openCheck == .pending then (if latch == some .openCoil then .made else .none) else pu.openCheck
    foldAt := none
    recycleAt := some (now + pu.recycleLength) }

theorem stopPulse_eq {s : State} {c : Chan} {pu : Pulse} (hpu : (s.chan c).pulse = some pu)
    (latch : Option FaultKind) :
    s.stopPulse c latch =
      (s.withUnits (s.arbiter.units - (s.chan c).draw)).modChan c fun ch =>
        { ch.updateHeat s.now with phase := .recycle, pulse := some (pu.stopped s.now latch) } := by
  rw [State.stopPulse, State.modPulse, setPhase_eq, State.modChan_modChan]
  refine State.modChan_congr ?_
  simp only [State.chan_withUnits, Channel.updateHeat, hpu, Option.map_some]
  rfl

/-- The end of a reflex entry's pulse with no member listed and a recycle to come (R15, R27, R42, R57, R123). -/
theorem endPulse_of_reflex {s : State} {c : Chan} {pu : Pulse} {x : ReflexNo} (hpu : (s.chan c).pulse = some pu)
    (howner : pu.owner = .reflex x) (howned : pu.owned = true) (hrecycle : 0 < pu.recycleLength)
    (hlist : s.arbiter.list = []) (cause : Cause) (latch : Option FaultKind) :
    s.endPulse c cause latch =
      ((s.withUnits (s.arbiter.units - (s.chan c).draw)).modChan c fun ch =>
        { ch.updateHeat s.now with phase := .recycle, pulse := some (pu.stopped s.now latch) }).modReflex x
          fun r => { r with report := { r.report with lastEnd := some cause } } := by
  obtain ⟨pu', hpu', howned', howner'⟩ := pulse_stopPulse hpu latch
  have hlist' : (s.stopPulse c latch).arbiter.list = [] := hlist
  have htell : (s.stopPulse c latch).tellPulseEnd c cause = ([], (s.stopPulse c latch).reflexPulseEnd x cause) := by
    simp only [State.tellPulseEnd, hpu', howned'.trans howned, howner'.trans howner, if_true]
  rw [← stopPulse_eq hpu latch]
  simp only [State.endPulse, hpu, Option.map_some, Option.getD_some, examineIf_of_nil hlist', htell, doAll_nil,
    if_neg (Nat.pos_iff_ne_zero.mp hrecycle), State.reflexPulseEnd]

/-! ## The events of a pulse that is due -/

/-- The kick end of a pulse whose sample has been made, or that has none (R23). -/
theorem takeKickEnd_of_sampled {s : State} {c : Chan} {pu : Pulse} (hphase : (s.chan c).phase = .kick)
    (hpu : (s.chan c).pulse = some pu) (hsampled : pu.openCheck ≠ .pending)
    (hdue : pu.start + pu.kickLength ≤ s.now) : s.takeKickEnd c = s.leaveKick c := by
  have hend : kickEndDue s.now (s.chan c) = true := by simp [kickEndDue, hphase, hpu, hdue]
  have hmade : (pu.openCheck == .pending) = false := beq_eq_false_iff_ne.mpr hsampled
  rw [State.takeKickEnd, if_pos hend]
  simp only [State.kickEnd, hpu, hmade, Bool.false_eq_true, if_false]

theorem leaveKick_of_plain {s : State} {c : Chan} {pu : Pulse} (hpu : (s.chan c).pulse = some pu)
    (hkind : pu.kind = .plain) : s.leaveKick c = s.endPulse c .complete none := by
  simp only [State.leaveKick, hpu, hkind]

theorem leaveKick_of_hold {s : State} {c : Chan} {pu : Pulse} (hpu : (s.chan c).pulse = some pu)
    (hkind : pu.kind = .hold) (hreleased : pu.released = false) (hduty : 0 < (s.chan c).profile.holdDuty) :
    s.leaveKick c = s.enterHold c := by
  simp only [State.leaveKick, hpu, hkind, hreleased, Bool.false_eq_true, if_false,
    if_neg (Nat.pos_iff_ne_zero.mp hduty)]

theorem takeSenseDelay_of_due {s : State} {c : Chan} {pu : Pulse} (hphase : (s.chan c).phase = .kick)
    (hpu : (s.chan c).pulse = some pu) (hpending : pu.openCheck = .pending)
    (hdue : pu.start + (s.chan c).profile.senseDelay ≤ s.now) : s.takeSenseDelay c = s.sampleSense c :=
  if_pos (by simp [senseDelayDue, hphase, hpu, hpending, hdue])

theorem takeMaxOn_of_due {s : State} {c : Chan} {pu : Pulse} (hlive : (s.chan c).phase.isLive = true)
    (hpu : (s.chan c).pulse = some pu) (hdue : pu.start + (s.chan c).profile.maxOn ≤ s.now) :
    s.takeMaxOn c = s.maxOn c :=
  if_pos (by simp [maxOnDue, hlive, hpu, hdue])

end Sys2Proof.Machine

/-!
The ends of a reflex entry's pulse.
-/

namespace Sys2Proof.Machine

/-- Settles O35: each event ends the pulse (`endPulse_of_reflex`) with its cause, and a high sample ends the check
alone. -/
theorem pulseEnds : Obligations.PulseEnds := by
  intro s c pu x hp hpu howner howned hrecycle hlist ended
  have hend : ∀ (act : State → State) (cause : Cause) (latch : Option FaultKind),
      act s = s.endPulse c cause latch →
      event act s = .next (ended cause (pu.stopped s.now latch).latched (pu.stopped s.now latch).openCheck) :=
    fun act cause latch hact => by
      rw [event_of_powered hp, hact, endPulse_of_reflex hpu howner howned hrecycle hlist]
      rfl
  refine ⟨fun hphase hkind hsampled hdue => ?_, fun hphase hpending hdue hlow => ?_,
    fun hphase hpending hdue hhigh => ?_, fun hphase hdue => ?_⟩
  · have hact : s.takeKickEnd c = s.endPulse c .complete none :=
      (takeKickEnd_of_sampled hphase hpu hsampled hdue).trans (leaveKick_of_plain hpu hkind)
    refine (hend (State.takeKickEnd · c) _ _ hact).trans ?_
    simp [Pulse.stopped, hsampled]
  · have hact : s.takeSenseDelay c = s.endPulse c .openCoil (some .openCoil) :=
      (takeSenseDelay_of_due hphase hpu hpending hdue).trans (by rw [State.sampleSense, if_neg (by simpa using hlow)])
    refine (hend (State.takeSenseDelay · c) _ _ hact).trans ?_
    simp [Pulse.stopped, hpending]
  · refine (event_of_powered hp (State.takeSenseDelay · c)).trans ?_
    rw [takeSenseDelay_of_due hphase hpu hpending hdue, State.sampleSense, if_pos hhigh, State.modPulse,
      State.modChan_congr (g := fun ch => { ch with pulse := some { pu with openCheck := .made } })
        (by rw [hpu]; rfl)]
  · have hlive : (s.chan c).phase.isLive = true := by
      rcases hphase with h | h | h <;> rw [h] <;> rfl
    refine (hend (State.takeMaxOn · c) _ _ (takeMaxOn_of_due hlive hpu hdue)).trans ?_
    by_cases hlatch : (s.chan c).profile.overtimeLatches = true <;> simp [Pulse.stopped, hlatch]

/-! ## Hold and fold -/

/-- A move of a live pulse to another state, with the fold interval left running or not (R23, R24, R57). -/
def State.movedPulse (s : State) (c : Chan) (pu : Pulse) (phase : Phase) (draw : Nat) (foldAt : Option Nat) : State :=
  (s.withUnits (s.arbiter.units + draw - (s.chan c).draw)).modChan c fun ch =>
    { ch.updateHeat s.now with phase := phase, pulse := some { pu with foldAt := foldAt } }

theorem setPhase_modPulse {s : State} {c : Chan} {pu : Pulse} (hpu : (s.chan c).pulse = some pu) (phase : Phase)
    (foldAt : Option Nat) :
    (s.setPhase c phase).modPulse c (fun pu => { pu with foldAt := foldAt }) =
      s.movedPulse c pu phase ((s.chan c).drawIn phase) foldAt := by
  rw [State.modPulse, setPhase_eq, State.modChan_modChan, State.movedPulse]
  refine State.modChan_congr ?_
  simp only [State.chan_withUnits, Channel.updateHeat, hpu, Option.map_some]

theorem setPhase_movedPulse {s : State} {c : Chan} {pu : Pulse} (hpu : (s.chan c).pulse = some pu) (phase : Phase) :
    s.setPhase c phase = s.movedPulse c pu phase ((s.chan c).drawIn phase) pu.foldAt := by
  rw [setPhase_eq, State.movedPulse]
  refine State.modChan_congr ?_
  simp only [State.chan_withUnits, Channel.updateHeat, hpu]

/-- The entry to HOLD with no member listed: the fold interval starts if the heat rises, and is left as it was if not
(R23, R50). -/
theorem enterHold_of_quiet {s : State} {c : Chan} {pu : Pulse} (hpu : (s.chan c).pulse = some pu)
    (hlist : s.arbiter.list = []) :
    (∀ fold, (s.chan c).profile.foldTime ((s.chan c).heatNow s.now) = some fold → 0 < fold →
      s.enterHold c = s.movedPulse c pu .hold (s.chan c).profile.holdDraw (some (s.now + fold)))
    ∧ ((s.chan c).profile.foldTime ((s.chan c).heatNow s.now) = none →
      s.enterHold c = s.movedPulse c pu .hold (s.chan c).profile.holdDraw pu.foldAt) := by
  have hchan : (s.setPhase c .hold).chan c = { (s.chan c).updateHeat s.now with phase := .hold } := by
    rw [chan_setPhase, if_pos rfl]
  refine ⟨fun fold hfold hpos => ?_, fun hnone => ?_⟩
  · obtain ⟨n, rfl⟩ := Nat.exists_eq_add_of_le' hpos
    have hlist' : ((s.setPhase c .hold).modPulse c
        fun pu => { pu with foldAt := some (s.now + (n + 1)) }).arbiter.list = [] := hlist
    simp only [State.enterHold, hchan, Channel.updateHeat, hfold]
    rw [examineIf_of_nil hlist', setPhase_modPulse hpu]
    rfl
  · have hlist' : (s.setPhase c .hold).arbiter.list = [] := hlist
    simp only [State.enterHold, hchan, Channel.updateHeat, hnone]
    rw [examineIf_of_nil hlist', setPhase_movedPulse hpu]
    rfl

/-- Settles O37: the entry to HOLD is `enterHold_of_quiet`, the fold a move of the pulse that its entry is told of. -/
theorem holdAndFold : Obligations.HoldAndFold := by
  intro s c pu x hp hpu howner howned hlist pr heat moved
  have hmoved : ∀ phase draw foldAt, moved phase draw foldAt = s.movedPulse c pu phase draw foldAt :=
    fun _ _ _ => rfl
  refine ⟨fun hphase hkind hreleased hduty hsampled hdue => ?_, fun expiry hphase hfold hle => ?_⟩
  · have hact : s.takeKickEnd c = s.enterHold c :=
      (takeKickEnd_of_sampled hphase hpu hsampled hdue).trans (leaveKick_of_hold hpu hkind hreleased hduty)
    obtain ⟨hsome, hnone⟩ := enterHold_of_quiet hpu hlist
    have hexec : exec (.kickEndExpiry c) s = .next (s.enterHold c).decideLines :=
      (event_of_powered hp (State.takeKickEnd · c)).trans (by rw [hact])
    exact ⟨fun fold h hpos => by rw [hexec, hsome fold h hpos]; rfl, fun h => by rw [hexec, hnone h]; rfl⟩
  · have hdue : foldDue s (s.chan c) = true := by simp [foldDue, hphase, hpu, State.expired, hfold, hle]
    have hact : s.takeFold c = (s.movedPulse c pu .fold ((s.chan c).drawIn .fold) none).tellFold (.reflex x) := by
      have hlist' : ((s.movedPulse c pu .fold ((s.chan c).drawIn .fold) none).tellFold (.reflex x)).arbiter.list = [] :=
        hlist
      rw [State.takeFold, if_pos hdue]
      simp only [State.foldPulse, hpu, howned, howner, if_true, setPhase_modPulse hpu]
      exact examineIf_of_nil hlist' _
    refine (event_of_powered hp (State.takeFold · c)).trans ?_
    rw [hact]
    rfl

end Sys2Proof.Machine

/-!
The kick end of a PULSE order.
-/

namespace Sys2Proof.Machine

/-- The end of an order whose record has room: the record enters the queue and the entry is freed (R90, R95). -/
theorem conclude_of_enters {s : State} {e : Entry} {status : EndStatus} (hquiet : e.order.quiet = false)
    (hroom : (s.port e.port).recordEnters = true) :
    s.conclude e status =
      (s.modPort e.port fun ps =>
        { ps with
          tail := ps.tail.atEnd e.order.tag status.good
          completions := ps.completions ++ [e.record status s.time] }).freeEntry e.port e.order.tag := by
  have hroom' : ((s.modPort e.port fun ps =>
      { ps with tail := ps.tail.atEnd e.order.tag status.good }).port e.port).recordEnters = true := by
    simpa [PortState.recordEnters] using hroom
  simp only [State.conclude, hquiet, Bool.false_eq_true, if_false, hroom', if_true, State.modPort_modPort]

/-- Settles O36: the pulse stops (`endPulse_of_over`) and its order, alone in the table, ends DONE with its record
(`doAll_finish_alone`, `conclude_of_enters`). -/
theorem pulseOrderIsDone : Obligations.PulseOrderIsDone := by
  intro s c pu e hp hphase hpu hqueue howner howned hkind hsampled hdue hrecycle hlist htable hchannel horder
    hquiet hstage hring hroom hheld
  subst hchannel
  have he : SoleIn s.table e := by
    rw [htable]
    exact ⟨List.mem_singleton.mpr rfl, fun x hx _ => List.mem_singleton.mp hx⟩
  have hover : KickOver s e pu :=
    ⟨hstage, horder, hphase, hpu, howner, howned, hkind, hsampled, hdue, hrecycle⟩
  let e1 : Entry := { e with lastCause := some .complete }
  let s1 := s.pulseEnded e.order.channel e.port e.order.tag .complete
  have htable1 : s1.table = [e1] := by
    show s.table.map _ = _
    rw [htable]
    simp [e1]
  have he1 : SoleIn s1.table e1 := he.modEntry (f := fun e => { e with lastCause := some .complete }) ⟨rfl, rfl⟩
  have hchan := fun d => chan_pulseEnded s e.order.channel d e.port e.order.tag .complete
  have habsent : ∀ q ∈ (s1.chan e.order.channel).queue, q.owner ≠ .order e.port e.order.tag := by
    rw [(hchan _).1, hqueue]; nofun
  have hfollow : ∀ g ∈ s1.table, g.follows e.port e.order.tag = false := by
    rw [htable1]
    intro g hg
    rw [List.mem_singleton.mp hg]
    simp [Entry.follows, e1, hstage]
  have henters : (s1.port e.port).recordEnters = true := by
    show (s.port e.port).recordEnters = true
    simp [PortState.recordEnters, Config.completionSize, hroom, hheld]
  have hdone : s.takeKickEnd e.order.channel = s1.conclude e1 .done := by
    rw [takeKickEnd_of_over hover, endPulse_of_over hover he hlist]
    exact doAll_finish_alone he1 (by simp [Entry.live, e1, hstage]) habsent hfollow hring .done true 0
  refine ⟨_, event_of_powered hp (State.takeKickEnd · e.order.channel), ?_⟩
  rw [hdone, conclude_of_enters (e := e1) hquiet henters]
  have hphase1 : (s1.chan e.order.channel).phase = .recycle := by rw [(hchan _).2.2, if_pos rfl]
  refine ⟨hphase1, gateSixteenths_of_recycle hphase1, ?_, ?_, ?_, ?_, fun d hd => ?_⟩
  · show (s1.chan e.order.channel).pulse.map (·.recycleAt) = _
    simp [s1, State.pulseEnded, State.modPulse, stopPulse_eq hpu, Pulse.stopped]
  · show s.arbiter.units + 0 - (s.chan e.order.channel).draw = _
    rw [Channel.draw, hphase]
    rfl
  · show s1.table.filter _ = []
    rw [htable1]
    simp [e1]
  · have hport : s1.port e.port = s.port e.port := rfl
    have hnow : s1.time = s.time := rfl
    rw [port_decideLines, State.port_freeEntry, State.port_modPort_self]
    simp [PortState.decideLine, hport, hnow, Entry.record, e1, horder]
  · show s1.chan d = s.chan d
    simp [s1, State.pulseEnded, State.modPulse, stopPulse_eq hpu, hd.symm]

end Sys2Proof.Machine

/-!
SUPPORT. The offer of the front of one channel's queue: what the size test and the kick test make of it, and the
state in which its kick has started.
-/

namespace Sys2Proof.Machine

/-! ## Which channel is offered -/

/-- The choice among one waiting channel is that channel. -/
theorem nextOffer_of_waiting {s : State} {c : Chan} (h : s.awaitsOffer c = true) : s.nextOffer [c] = some c := by
  have hfind : ∀ (q : Chan → Bool) (x : Chan), [c].find? q = some x → x = c := fun q x hx =>
    List.mem_singleton.mp (List.mem_of_find?_eq_some hx)
  simp only [State.nextOffer, List.filter_cons, h, if_true, List.filter_nil, List.head?_cons]
  cases h1 : [c].find? fun c => (allFin 16).any fun x => s.refuses c (.reflex x) with
  | some x => rw [hfind _ x h1]; rfl
  | none =>
    cases h2 : s.table.findSome? fun e => [c].find? fun c => s.refuses c (.order e.port e.order.tag) with
    | some x =>
      obtain ⟨e, -, he⟩ := List.exists_of_findSome?_eq_some h2
      rw [hfind _ x he]; rfl
    | none => rfl

/-- With no channel waiting none is offered. -/
theorem nextOffer_of_none {s : State} {cs : List Chan} (h : ∀ c ∈ cs, s.awaitsOffer c = false) :
    s.nextOffer cs = none := by
  have hnone : cs.filter s.awaitsOffer = [] := List.filter_eq_nil_iff.mpr fun c hc => by simp [h c hc]
  simp only [State.nextOffer, hnone, List.find?_nil, List.head?_nil, Option.or_none, Option.none_or]
  exact List.findSome?_eq_none_iff.mpr fun _ _ => rfl

theorem awaitsOffer_of_front {s : State} {c : Chan} {q : QueueMember} {rest : List QueueMember}
    (hphase : (s.chan c).phase = .idle) (hfront : (s.chan c).front = .channelWait)
    (hqueue : (s.chan c).queue = q :: rest) : s.awaitsOffer c = true := by
  simp [State.awaitsOffer, hphase, hfront, hqueue]

theorem awaitsOffer_of_not_idle {s : State} {c : Chan} (h : (s.chan c).phase ≠ .idle) :
    s.awaitsOffer c = false := by
  simp [State.awaitsOffer, h]

theorem awaitsOffer_of_empty {s : State} {c : Chan} (h : (s.chan c).queue = []) : s.awaitsOffer c = false := by
  simp [State.awaitsOffer, h]

/-! ## The offer -/

/-- An offer of channels none of which waits does nothing. -/
theorem doAll_offer_of_none {s : State} {cs : List Chan} (h : ∀ c ∈ cs, s.awaitsOffer c = false) (ex : Bool)
    (ws : List Work) : s.doAll ex (.offer cs :: ws) = s.doAll ex ws := by
  have hrun : Work.run ex (.offer cs) s = ⟨[], [], s⟩ := by
    simp only [Work.run, offer, nextOffer_of_none h]
  rw [doAll_cons, hrun]
  simp

/-- A front that passes the size test meets the kick test (R33, R68). -/
theorem doAll_offer_of_sizeOk {s : State} {c : Chan} {q : QueueMember} {rest : List QueueMember}
    (hphase : (s.chan c).phase = .idle) (hfront : (s.chan c).front = .channelWait)
    (hqueue : (s.chan c).queue = q :: rest) (hsize : s.sizeOk c q.owner = true) (ex : Bool) (ws : List Work) :
    s.doAll ex (.offer [c] :: ws) = (s.kickTest ex c).doAll ex ws := by
  have hrun : Work.run ex (.offer [c]) s = ⟨[.offer []], [], s.kickTest ex c⟩ := by
    simp [Work.run, offer, nextOffer_of_waiting (awaitsOffer_of_front hphase hfront hqueue), hqueue, hsize]
  rw [doAll_cons, hrun, List.append_nil]
  exact doAll_offer_of_none (by simp) ex ws

/-- A reflex request that is too large leaves the queue and is dropped, and the next member is offered (R68). -/
theorem doAll_offer_drops {s : State} {c : Chan} {q : QueueMember} {rest : List QueueMember} {x : ReflexNo}
    (hphase : (s.chan c).phase = .idle) (hfront : (s.chan c).front = .channelWait)
    (hqueue : (s.chan c).queue = q :: rest) (howner : q.owner = .reflex x) (hsize : s.sizeOk c q.owner = false)
    (ex : Bool) (ws : List Work) :
    s.doAll ex (.offer [c] :: ws) =
      ((s.leaveQueue ex c (.reflex x)).dropRequest x .oversize).doAll ex (.offer [c] :: ws) := by
  have hrun : Work.run ex (.offer [c]) s =
      ⟨[.offer [c]], [], (s.leaveQueue ex c (.reflex x)).dropRequest x .oversize⟩ := by
    rw [howner] at hsize
    simp [Work.run, offer, nextOffer_of_waiting (awaitsOffer_of_front hphase hfront hqueue), hqueue, howner, hsize]
  rw [doAll_cons, hrun]
  simp

/-! ## The kick test -/

theorem Channel.updateHeat_updateHeat (ch : Channel) (now : Nat) :
    (ch.updateHeat now).updateHeat now = ch.updateHeat now :=
  updateHeat_of_fresh rfl (heatAfter_le ..)

@[simp] theorem State.kickShape_updateHeat (s : State) (c : Chan) (o : Owner) :
    (s.updateHeat c).kickShape o = s.kickShape o := by cases o <;> rfl

/-- A front that fails the kick test waits for its cooling (R46, R47). -/
theorem kickTest_of_unfit {s : State} {c : Chan} {q : QueueMember} {rest : List QueueMember}
    (hqueue : (s.chan c).queue = q :: rest)
    (hfits : (s.chan c).profile.kickFits ((s.chan c).heatNow s.now)
      ((s.chan c).profile.kickLength (s.kickShape q.owner).fraction) = false) (ex : Bool) :
    s.kickTest ex c =
      (s.modChan c fun ch =>
        { ch.updateHeat s.now with
          front := .heatWait (s.now + ch.profile.coolingWait (ch.heatNow s.now)
            (ch.profile.kickLength (s.kickShape q.owner).fraction)) }).tellHeatWait q.owner := by
  have hchan : (s.updateHeat c).chan c = (s.chan c).updateHeat s.now := State.chan_modChan_self ..
  simp only [State.kickTest, hqueue, hchan, Channel.updateHeat, hfits, Bool.false_eq_true, if_false]
  rw [State.updateHeat, State.modChan_modChan]
  exact congrArg (State.tellHeatWait · q.owner) (State.modChan_congr rfl)

/-- A front that passes the kick test joins the admission list (R46, R60). -/
theorem kickTest_of_fits {s : State} {c : Chan} {q : QueueMember} {rest : List QueueMember}
    (hqueue : (s.chan c).queue = q :: rest)
    (hfits : (s.chan c).profile.kickFits ((s.chan c).heatNow s.now)
      ((s.chan c).profile.kickLength (s.kickShape q.owner).fraction) = true) (ex : Bool) :
    s.kickTest ex c = (s.updateHeat c).join ex c q := by
  have hchan : (s.updateHeat c).chan c = (s.chan c).updateHeat s.now := State.chan_modChan_self ..
  simp only [State.kickTest, hqueue, hchan, Channel.updateHeat, hfits, if_true]

/-! ## Joining with the rail not ON -/

theorem examine_of_railOff {s : State} (h : s.control.rail ≠ .on) : s.examine = s := by
  have hoff : s.railOn = false := beq_eq_false_iff_ne.mpr h
  unfold State.examine
  cases s.arbiter.list with
  | nil => rfl
  | cons m rest => simp [examineFrom, hoff]

theorem examine_of_nil {s : State} (h : s.arbiter.list = []) : s.examine = s := by
  rw [State.examine, h, examineFrom]

theorem lists_of_mem {a : Arbiter} {m : Member} (h : m ∈ a.list) : a.lists m.channel = true :=
  List.any_eq_true.mpr ⟨m, h, by simp⟩

theorem lists_of_absent {a : Arbiter} {c : Chan} (h : ∀ m ∈ a.list, m.channel ≠ c) : a.lists c = false :=
  List.any_eq_false.mpr fun m hm => by simpa using h m hm

/-- The member that a front makes when it joins the admission list (R60). -/
def State.memberOf (s : State) (c : Chan) (q : QueueMember) : Member :=
  ⟨c, q.owner, q.priority, (s.chan c).profile.kickDraw, s.arbiter.joins⟩

/-- The state in which a front has joined the admission list, which is still to be examined (R60). -/
def State.joined (s : State) (c : Chan) (q : QueueMember) : State :=
  { s with
    arbiter :=
      { s.arbiter with
        list := insertMember (s.memberOf c q) s.arbiter.list
        joins := s.arbiter.joins + 1 } }.modChan c fun ch => { ch with front := .admission }

theorem chan_joined (s : State) (c : Chan) (q : QueueMember) :
    (s.joined c q).chan c = { s.chan c with front := .admission } :=
  State.chan_modChan_self _ c fun ch => { ch with front := .admission }

theorem join_eq (s : State) (c : Chan) (q : QueueMember) :
    s.join true c q =
      if (s.joined c q).examine.arbiter.lists c then (s.joined c q).examine.tellRailWait q.owner
      else (s.joined c q).examine := rfl

/-- With the rail not ON a front that joins stays in the list, and its owner is told that it waits (R60, R64). -/
theorem join_of_railOff {s : State} (h : s.control.rail ≠ .on) (c : Chan) (q : QueueMember) :
    s.join true c q = (s.joined c q).tellRailWait q.owner := by
  have hexamine : (s.joined c q).examine = s.joined c q := examine_of_railOff h
  have hlists : (s.joined c q).arbiter.lists c = true :=
    lists_of_mem (m := s.memberOf c q) ((insertMember_perm _ _).mem_iff.mpr (List.mem_cons_self ..))
  rw [join_eq, hexamine, if_pos hlists]

/-! ## The kick -/

/-- The pulse record of a kick that starts now for an owner (R22). -/
def State.kickPulse (s : State) (c : Chan) (o : Owner) : Pulse where
  owner := o
  owned := true
  kind := (s.kickShape o).kind
  kickLength := (s.chan c).profile.kickLength (s.kickShape o).fraction
  start := s.now
  recycleLength := (s.chan c).profile.recycle + (s.kickShape o).gap
  released := false
  latched := none
  openCheck := if 0 < (s.chan c).profile.senseDelay then .pending else .none
  foldAt := none
  recycleAt := none

/-- The state in which the front of a channel's queue has joined an empty list and its kick has started (R22, R60,
R63, R86). -/
def State.kicked (s : State) (c : Chan) (o : Owner) : State :=
  ({ s with
    arbiter :=
      { s.arbiter with
        units := s.arbiter.units + (s.chan c).profile.kickDraw
        joins := s.arbiter.joins + 1 } }.modChan c fun ch =>
    { ch.updateHeat s.now with
      phase := .kick
      pulse := some (s.kickPulse c o)
      queue := ch.queue.filter fun q => q.owner != o
      front := .channelWait
      shortAt := none }).tellKick o

/-- The grant of the one listed member, a front of an IDLE channel, is its kick (R22, R57). -/
theorem grant_joined {s : State} {c : Chan} {q : QueueMember} (hphase : (s.chan c).phase = .idle)
    (hlist : s.arbiter.list = []) :
    { s.joined c q with arbiter := { (s.joined c q).arbiter with list := [] } }.grant (s.memberOf c q) =
      s.kicked c q.owner := by
  let t : State := { s.joined c q with arbiter := { (s.joined c q).arbiter with list := [] } }
  have hchan : t.chan c = { s.chan c with front := .admission } := chan_joined s c q
  have hunits : s.arbiter.units + (t.chan c).drawIn .kick - (t.chan c).draw
      = s.arbiter.units + (s.chan c).profile.kickDraw := by
    rw [hchan]
    simp [Channel.draw, Channel.drawIn, hphase]
  have hshape : t.kickShape q.owner = s.kickShape q.owner := by cases q.owner <;> rfl
  have hpulse : t.newPulse (s.memberOf c q) = s.kickPulse c q.owner := by
    simp only [State.newPulse, State.memberOf, hshape, hchan]
    rfl
  have hgrant : t.grant (s.memberOf c q) =
      ((({ s with
        arbiter :=
          { s.arbiter with
            units := s.arbiter.units + (t.chan c).drawIn .kick - (t.chan c).draw
            list := []
            joins := s.arbiter.joins + 1 } }.modChan c fun ch => { ch with front := .admission }).modChan c
          fun ch => { ch.updateHeat s.now with phase := .kick }).modChan c fun ch =>
            { ch with
              pulse := some (t.newPulse (s.memberOf c q))
              queue := ch.queue.filter fun x => x.owner != q.owner
              front := .channelWait
              shortAt := none }).tellKick q.owner := rfl
  show t.grant (s.memberOf c q) = _
  rw [hgrant, hunits, hpulse, State.modChan_modChan, State.modChan_modChan, ← hlist]
  rfl

/-- A front that joins an empty list with room on an ON rail kicks at once (R60, R62, R63). -/
theorem join_grants {s : State} {c : Chan} {q : QueueMember} (hphase : (s.chan c).phase = .idle)
    (hlist : s.arbiter.list = []) (hrail : s.control.rail = .on)
    (hroom : s.arbiter.units + (s.chan c).profile.kickDraw ≤ s.arbiter.limit q.owner) :
    s.join true c q = s.kicked c q.owner := by
  let t := s.joined c q
  have hmember : t.arbiter.list = [s.memberOf c q] := by simp [t, State.joined, hlist, insertMember]
  have hon : t.railOn = true := (railOn_iff s).mpr hrail
  have hfits : t.arbiter.fits (s.memberOf c q) = true := decide_eq_true hroom
  have hchan : t.chan c = { s.chan c with front := .admission } := chan_joined s c q
  have hidle : ((t.chan (s.memberOf c q).channel).phase == .idle) = true := by
    show ((t.chan c).phase == .idle) = true
    rw [hchan, hphase]
    rfl
  have hexamine : t.examine = s.kicked c q.owner := by
    rw [State.examine, hmember]
    simp only [examineFrom, hon, hfits, hidle, Bool.and_self, if_true]
    exact grant_joined hphase hlist
  have hnone : (s.kicked c q.owner).arbiter.lists c = false := by
    refine lists_of_absent ?_
    cases hq : q.owner <;> simp [State.kicked, State.tellKick, hlist]
  rw [join_eq]
  show (if t.examine.arbiter.lists c = true then _ else _) = _
  rw [hexamine, hnone]
  rfl

theorem State.kicked_updateHeat (s : State) (c : Chan) (o : Owner) : (s.updateHeat c).kicked c o = s.kicked c o := by
  have hchan : (s.updateHeat c).chan c = (s.chan c).updateHeat s.now := State.chan_modChan_self ..
  have hpulse : (s.updateHeat c).kickPulse c o = s.kickPulse c o := by
    simp only [State.kickPulse, hchan, State.kickShape_updateHeat]
    rfl
  rw [State.kicked, hpulse, hchan]
  refine congrArg (State.tellKick · o) ?_
  refine (State.modChan_modChan { s with
    arbiter :=
      { s.arbiter with
        units := s.arbiter.units + (s.chan c).profile.kickDraw
        joins := s.arbiter.joins + 1 } } c (Channel.updateHeat s.now) _).trans (State.modChan_congr ?_)
  simp only [show (s.updateHeat c).now = s.now from rfl, Channel.updateHeat_updateHeat]
  rfl

/-- An offered front with room on an ON rail and room for the heat kicks at once (R33, R46, R62). -/
theorem doAll_offer_kicks {s : State} {c : Chan} {q : QueueMember} {rest : List QueueMember}
    (hphase : (s.chan c).phase = .idle) (hfront : (s.chan c).front = .channelWait)
    (hqueue : (s.chan c).queue = q :: rest) (hlist : s.arbiter.list = []) (hrail : s.control.rail = .on)
    (hroom : s.arbiter.units + (s.chan c).profile.kickDraw ≤ s.arbiter.limit q.owner)
    (hfits : (s.chan c).profile.kickFits ((s.chan c).heatNow s.now)
      ((s.chan c).profile.kickLength (s.kickShape q.owner).fraction) = true) (ws : List Work) :
    s.doAll true (.offer [c] :: ws) = (s.kicked c q.owner).doAll true ws := by
  have hsize : s.sizeOk c q.owner = true := decide_eq_true ((Nat.le_add_left _ _).trans hroom)
  have hchan : (s.updateHeat c).chan c = (s.chan c).updateHeat s.now := State.chan_modChan_self ..
  have hjoin : (s.updateHeat c).join true c q = (s.updateHeat c).kicked c q.owner :=
    join_grants (by rw [hchan]; exact hphase) hlist hrail (by rw [hchan]; exact hroom)
  rw [doAll_offer_of_sizeOk hphase hfront hqueue hsize, kickTest_of_fits hqueue hfits, hjoin, State.kicked_updateHeat]

/-! ## Reads of the state in which a kick has started -/

theorem chan_tellKick (s : State) (o : Owner) (c : Chan) : (s.tellKick o).chan c = s.chan c := by cases o <;> rfl

theorem kicked_chan_self (s : State) (c : Chan) (o : Owner) :
    (s.kicked c o).chan c =
      { (s.chan c).updateHeat s.now with
        phase := .kick
        pulse := some (s.kickPulse c o)
        queue := (s.chan c).queue.filter fun q => q.owner != o
        front := .channelWait
        shortAt := none } := by
  rw [State.kicked, chan_tellKick, State.chan_modChan_self]
  rfl

theorem kicked_chan_ne (s : State) {c d : Chan} (h : d ≠ c) (o : Owner) : (s.kicked c o).chan d = s.chan d := by
  rw [State.kicked, chan_tellKick, State.chan_modChan_ne _ h.symm]
  rfl

theorem kicked_arbiter (s : State) (c : Chan) (o : Owner) :
    (s.kicked c o).arbiter =
      { s.arbiter with
        units := s.arbiter.units + (s.chan c).profile.kickDraw
        joins := s.arbiter.joins + 1 } := by
  cases o <;> rfl

theorem kicked_port (s : State) (c : Chan) (o : Owner) (p : Port) : (s.kicked c o).port p = s.port p := by
  cases o <;> rfl

theorem kicked_table (s : State) (c : Chan) (p : Port) (tag : Byte) :
    (s.kicked c (.order p tag)).table =
      (s.modEntry p tag fun e =>
        { e.moveTo .running with steps := e.steps + 1, firstKick := e.firstKick.or (some s.time) }).table := rfl

theorem kicked_powered (s : State) (c : Chan) (o : Owner) : (s.kicked c o).powered = s.powered := by
  cases o <;> rfl

end Sys2Proof.Machine

/-!
An order that is posted, or a reflex request that is raised, for an IDLE channel with an empty queue: it is offered
and kicks in the same event.
-/

namespace Sys2Proof.Machine

/-! ## The reply -/

theorem answered_ring (s : State) (p q : Port) (status : Status) (body : List Byte) :
    ((s.answered p status body).port q).ring = (s.port q).ring := by
  rw [State.answered, port_decideLines]
  by_cases h : p = q
  · subst h; simp [PortState.decideLine]
  · simp [PortState.decideLine, h]

theorem answered_tail (s : State) (p q : Port) (status : Status) (body : List Byte) :
    ((s.answered p status body).port q).tail = (s.port q).tail := by
  rw [State.answered, port_decideLines]
  by_cases h : p = q
  · subst h; simp [PortState.decideLine]
  · simp [PortState.decideLine, h]

/-! ## The arrival -/

theorem depart_of_unlisted {s : State} {c : Chan} (h : s.arbiter.lists c = false) (ex : Bool) : s.depart ex c = s :=
  if_neg (by simp [h])

/-- A member that joins the empty queue of an IDLE channel is its front and is offered (R32, R33). -/
theorem enqueue_of_idle_empty {s : State} {c : Chan} (q : QueueMember) (hphase : (s.chan c).phase = .idle)
    (hqueue : (s.chan c).queue = []) (hlist : s.arbiter.list = []) :
    enqueue true c q s =
      ⟨[.offer [c]], [], s.modChan c fun ch => { ch with queue := [q], front := .channelWait }⟩ := by
  have hnone : ∀ f, (s.modChan c f).arbiter.lists c = false := fun f =>
    lists_of_absent (by rw [State.modChan_arbiter, hlist]; nofun)
  simp only [enqueue, hphase, hqueue, State.chan_modChan_self, insertQueue, Channel.isTestingFront, List.head?_cons,
    Option.map_some, beq_self_eq_true, Bool.and_self, if_true, State.displace]
  rw [State.modChan_modChan, depart_of_unlisted (hnone _)]
  refine congrArg (WorkResult.mk [.offer [c]] []) (State.modChan_congr ?_)
  simp only [hqueue, insertQueue]

/-- The arrival of an order at an IDLE channel with an empty queue (R33, R35). -/
theorem doAll_arrive_of_idle {s : State} {e : Entry} (he : SoleIn s.table e) (hl : e.live = true)
    (hphase : (s.chan e.order.channel).phase = .idle) (hqueue : (s.chan e.order.channel).queue = [])
    (hlist : s.arbiter.list = []) (ws : List Work) :
    let a := (s.chan e.order.channel).arrivals
    s.doAll true (.arrive e.port e.order.tag :: ws) =
      ((s.modEntry e.port e.order.tag fun e => { e with stage := .queued, arrival := some a }).modChan
        e.order.channel fun ch =>
          { ch with
            arrivals := a + 1
            queue := [⟨.order e.port e.order.tag, e.order.priority, a⟩]
            front := .channelWait }).doAll true (.offer [e.order.channel] :: ws) := by
  intro a
  have hentry := he.modEntry_congr (f := fun e => { e.moveTo .queued with arrival := some a })
    (g := fun e => { e with stage := .queued, arrival := some a }) (by rw [Entry.moveTo_of_live hl])
  have hrun : Work.run true (.arrive e.port e.order.tag) s =
      ⟨[.offer [e.order.channel]], [],
        (s.modEntry e.port e.order.tag fun e => { e with stage := .queued, arrival := some a }).modChan
        e.order.channel fun ch =>
          { ch with
            arrivals := a + 1
            queue := [⟨.order e.port e.order.tag, e.order.priority, a⟩]
            front := .channelWait }⟩ := by
    simp only [Work.run, arrive, he.entry, hphase]
    rw [hentry, enqueue_of_idle_empty _ (by simpa using hphase) (by simpa using hqueue) (by exact hlist),
      State.modChan_modChan]
  rw [doAll_cons, hrun]
  simp

end Sys2Proof.Machine

/-!
A posted PULSE.
-/

namespace Sys2Proof.Machine

/-- The modes and ports whose orders are allowed (R75). -/
theorem modeAllows_of {mode : Mode} {p : Port}
    (h : (mode = .attract ∨ mode = .game) ∧ p ≠ .p2 ∨ mode = .tilt ∧ p = .p0 ∨ mode = .service ∧ p = .p2) :
    modeAllows mode p = true := by
  rcases h with ⟨rfl | rfl, hp⟩ | ⟨rfl, rfl⟩ | ⟨rfl, rfl⟩
  · cases p <;> first | rfl | exact absurd rfl hp
  · cases p <;> first | rfl | exact absurd rfl hp
  · rfl
  · rfl

/-- The entry of a PULSE order that has been taken and waits at its channel. -/
def Entry.arrived (p : Port) (o : Order) (a : Nat) : Entry :=
  { Entry.taken p o .queued with arrival := some a }

/-- The state in which an order has been taken and is the one member of its IDLE channel's queue. -/
def State.withArrived (s : State) (p : Port) (o : Order) : State :=
  (s.withTaken p (.arrived p o (s.chan o.channel).arrivals)).modChan o.channel fun ch =>
    { ch with
      arrivals := (s.chan o.channel).arrivals + 1
      queue := [⟨.order p o.tag, o.priority, (s.chan o.channel).arrivals⟩]
      front := .channelWait }

theorem port_withArrived (s : State) (p : Port) (o : Order) :
    (s.withArrived p o).port p =
      { s.port p with ring := ⟨((s.port p).ring.head + 1) % 32, []⟩, tail := ⟨some o.tag, .live⟩ } := by
  show (s.withTaken p (.arrived p o (s.chan o.channel).arrivals)).port p = _
  rw [State.withTaken, State.port_modPort_self]
  rfl

theorem kickShape_withArrived {s : State} {p : Port} {o : Order} (htag : s.entry p o.tag = none) :
    (s.withArrived p o).kickShape (.order p o.tag) = o.kickShape := by
  have hentry : (s.withArrived p o).entry p o.tag = some (.arrived p o (s.chan o.channel).arrivals) :=
    (soleIn_withTaken (e := Entry.arrived p o (s.chan o.channel).arrivals) rfl htag).entry
  simp only [State.kickShape, hentry]
  rfl

/-- An accepted order with no due time, for an IDLE channel with room on an ON rail and room for the heat, is taken
and kicks in the same event (R22, R79, R80, R86). -/
theorem acceptOrder_kicks {s : State} {p : Port} {o : Order} (hring : (s.port p).ring.slots = [])
    (hquota : (s.entriesOf p).length < 16) (hfollow : o.follow = false) (hdue : o.due = none)
    (htag : s.entry p o.tag = none) (hphase : (s.chan o.channel).phase = .idle)
    (hqueue : (s.chan o.channel).queue = []) (hlist : s.arbiter.list = []) (hrail : s.control.rail = .on)
    (hroom : s.arbiter.units + (s.chan o.channel).profile.kickDraw ≤ s.arbiter.budget - s.arbiter.reserve)
    (hfits : (s.chan o.channel).profile.kickFits ((s.chan o.channel).heatNow s.now)
      ((s.chan o.channel).profile.kickLength o.kickShape.fraction) = true) :
    s.acceptOrder p o = (s.withArrived p o).kicked o.channel (.order p o.tag) := by
  have hsole := soleIn_withTaken (e := Entry.taken p o .queued) rfl htag
  have hready := doAll_ready_of_reached hsole (fun due h => by
    rw [show (Entry.taken p o .queued).order.due = none from hdue] at h; cases h) true [.takes p]
  have harrive := doAll_arrive_of_idle hsole rfl hphase hqueue hlist [.takes p]
  have harrived : s.acceptOrder p o = (s.withArrived p o).doAll true [.offer [o.channel], .takes p] := by
    rw [acceptOrder_ready hring hquota (.inl hfollow)]
    refine hready.trans (harrive.trans ?_)
    rw [modEntry_withTaken rfl htag rfl]
    rfl
  have hchan : (s.withArrived p o).chan o.channel =
      { s.chan o.channel with
        arrivals := (s.chan o.channel).arrivals + 1
        queue := [⟨.order p o.tag, o.priority, (s.chan o.channel).arrivals⟩]
        front := .channelWait } := State.chan_modChan_self ..
  rw [harrived, doAll_offer_kicks (s := s.withArrived p o)
    (q := ⟨.order p o.tag, o.priority, (s.chan o.channel).arrivals⟩) (rest := [])
    (by rw [hchan]; exact hphase) (by rw [hchan]) (by rw [hchan]) hlist hrail (by rw [hchan]; exact hroom)
    (by rw [kickShape_withArrived htag, hchan]; exact hfits)]
  refine Eq.trans (doAll_takes_of_empty ?_ true []) (doAll_nil _ _)
  rw [kicked_port]
  exact withTaken_ring s p _

/-- A POST ORDER that passes every test is accepted (R74). -/
theorem answerPostOrder_ok {s : State} {p : Port} {r : OrderRecord} {c : Chan}
    (hc : channelOf r.channel = some c) (hkind : r.kind = 0) (hpost : (s.chan c).profile.posting.get p = true)
    (henabled : (s.chan c).profile.enabled = true) (hmode : modeAllows s.control.mode p = true)
    (htag : s.tagLive p r.tag = false) (hring : (s.port p).ring.slots = []) :
    (answerPostOrder p r s).status = .ok := by
  have hk : orderKindOf r.kind = some .pulse := by rw [hkind]; rfl
  have hnone : s.orderRefusal p r c .pulse = none := by
    simp [State.orderRefusal, hpost, henabled, hmode, htag, hring, Config.ringSize]
  simp only [answerPostOrder, hc, hk, hnone]

/-- Settles O29: the order is accepted (`answerPostOrder_ok`), taken and granted (`acceptOrder_kicks`), and the state is
that in which its kick has started. -/
theorem postedPulseKicksAtOnce : Obligations.PostedPulseKicksAtOnce := by
  intro s p r c hs hc hkind hfollow hdue hpost henabled hmode htag hring hquota hphase hqueue hlist hrail hroom k
    length hfits
  let o := workingOrder r c .pulse
  have hk : orderKindOf r.kind = some .pulse := by rw [hkind]; rfl
  have hentry : s.entry p r.tag = none := by
    simpa [State.tagLive, hring] using htag
  have hshape : o.kickShape = ⟨k, .plain, 0⟩ := rfl
  have haccept : s.acceptOrder p o = (s.withArrived p o).kicked c (.order p r.tag) :=
    acceptOrder_kicks hring hquota hfollow hdue hentry hphase hqueue hlist hrail hroom (by rw [hshape]; exact hfits)
  have hok := answerPostOrder_ok hc hkind hpost henabled (modeAllows_of hmode) htag hring
  have hchan : (s.withArrived p o).chan c =
      { s.chan c with
        arrivals := (s.chan c).arrivals + 1
        queue := [⟨.order p r.tag, o.priority, (s.chan c).arrivals⟩]
        front := .channelWait } := State.chan_modChan_self ..
  have harrived : (s.withArrived p o).kickShape (.order p r.tag) = ⟨k, .plain, 0⟩ :=
    kickShape_withArrived hentry
  let t := (s.withArrived p o).kicked c (.order p r.tag)
  have hself : t.chan c = _ := kicked_chan_self (s.withArrived p o) c (.order p r.tag)
  have hphase' : (t.chan c).phase = .kick := by rw [hself]
  have hpulse : (t.chan c).pulse = some ((s.withArrived p o).kickPulse c (.order p r.tag)) := by rw [hself]
  refine ⟨_, postOrder_takes hs hc hk hok hring haccept, hphase',
    gateSixteenths_of_kick ?_ hphase', ?_, hpulse.trans ?_, ?_, ?_, fun d hd => ?_, ?_, ?_, ?_⟩
  · exact (kicked_powered _ _ _).trans hs.1
  · show (t.chan c).queue = []
    rw [hself, hchan]
    simp
  · simp only [State.kickPulse, harrived, hchan]
    rfl
  · show t.arbiter.units = _
    rw [kicked_arbiter, hchan]
    rfl
  · show t.arbiter.list = []
    rw [kicked_arbiter]
    exact hlist
  · show t.chan d = s.chan d
    rw [kicked_chan_ne _ hd]
    exact State.chan_modChan_ne _ hd.symm _
  · have htable : t.table = s.table ++
        [{ Entry.arrived p o (s.chan c).arrivals with stage := .running, steps := 1, firstKick := some s.time }] := by
      rw [kicked_table]
      exact congrArg State.table (modEntry_withTaken (p := p) (e := .arrived p o (s.chan c).arrivals)
        (f := fun e => { e.moveTo .running with steps := e.steps + 1, firstKick := e.firstKick.or (some s.time) })
        rfl hentry rfl)
    exact ⟨_, htable, rfl, rfl, rfl, rfl, rfl, rfl, rfl⟩
  · rw [answered_ring, kicked_port, port_withArrived]
  · rw [answered_tail, kicked_port, port_withArrived]
    rfl

end Sys2Proof.Machine

/-!
A CLOSE edge on an ARMED FIRE or FLIP entry.
-/

namespace Sys2Proof.Machine

/-! ## The reflex table and one entry -/

theorem reflexEdge_of_unconcerned {n : SwitchNo} {close : Bool} {s : State} {l : List ReflexNo}
    (h : ∀ y ∈ l, (s.reflexAt y).concerned n close = false) (named : Option (ReflexNo × ReflexAct)) :
    reflexEdge n close l named s = (named, s) := by
  induction l with
  | nil => rfl
  | cons y ys ih =>
    rw [reflexEdge, h y (List.mem_cons_self ..)]
    exact ih fun z hz => h z (List.mem_cons_of_mem _ hz)

theorem reflexEdge_append (n : SwitchNo) (close : Bool) (l l' : List ReflexNo) :
    ∀ (named : Option (ReflexNo × ReflexAct)) (s : State),
      reflexEdge n close (l ++ l') named s =
        reflexEdge n close l' (reflexEdge n close l named s).1 (reflexEdge n close l named s).2 := by
  induction l with
  | nil => exact fun _ _ => rfl
  | cons x xs ih =>
    intro named s
    simp only [List.cons_append, reflexEdge]
    split
    · exact ih _ _
    · exact ih _ _

/-- An edge that concerns one entry alone, whose action leaves the others as they are (R120). -/
theorem reflexEdge_of_one {n : SwitchNo} {close : Bool} {s t : State} {x : ReflexNo} {act : ReflexAct}
    (hx : (s.reflexAt x).concerned n close = true) (hact : s.reflexAct x close = (act, t))
    (hothers : ∀ y, y ≠ x → (s.reflexAt y).concerned n close = false)
    (hkept : ∀ y, y ≠ x → t.reflexAt y = s.reflexAt y) :
    reflexEdge n close (allFin 16) none s = (some (x, act), t) := by
  have hmem : x ∈ allFin 16 := List.mem_ofFn.mpr ⟨x, rfl⟩
  have hnodup : (allFin 16).Nodup := List.nodup_ofFn.mpr fun _ _ h => h
  obtain ⟨before, after, hsplit⟩ := List.append_of_mem hmem
  rw [hsplit, List.nodup_middle, List.nodup_cons, List.mem_append, not_or] at hnodup
  obtain ⟨⟨hbefore, hafter⟩, -⟩ := hnodup
  rw [hsplit, reflexEdge_append,
    reflexEdge_of_unconcerned fun y hy => hothers y fun h => hbefore (h ▸ hy)]
  simp only [reflexEdge, hx, if_true, hact]
  exact reflexEdge_of_unconcerned (fun y hy => by
    have hne : y ≠ x := fun h => hafter (h ▸ hy)
    rw [hkept y hne, hothers y hne]) _

/-! ## The records of an edge -/

/-- A record that is offered moves the ports alone. -/
theorem offerEvents_ports (ev : SwitchEvent) (l : List Port) :
    ∀ s : State, ∃ v, l.foldl (fun s p => s.offerEvent ev p) s = { s with ports := v } := by
  induction l with
  | nil => exact fun s => ⟨s.ports, rfl⟩
  | cons p l ih =>
    intro s
    obtain ⟨w, hw⟩ : ∃ w, s.offerEvent ev p = { s with ports := w } := by
      unfold State.offerEvent
      split
      · exact ⟨_, rfl⟩
      · exact ⟨s.ports, rfl⟩
    obtain ⟨v, hv⟩ := ih (s.offerEvent ev p)
    refine ⟨v, ?_⟩
    rw [List.foldl_cons, hv, hw]

theorem switches_offerEvent (s : State) (ev : SwitchEvent) (p q : Port) :
    ((s.offerEvent ev p).port q).switches =
      if p = q ∧ (s.port q).switches.set.getLsbD ev.switch.val = true then (s.port q).switches.offerEvent ev
      else (s.port q).switches := by
  unfold State.offerEvent
  by_cases hq : p = q
  · subst hq
    by_cases h : (s.port p).switches.set.getLsbD ev.switch.val = true
    · simp only [h, and_self, if_true, State.port_modPort_self]
    · simp only [h, Bool.false_eq_true, and_false, if_false]
  · simp only [hq, false_and, if_false]
    split
    · rw [State.port_modPort_ne _ hq]
    · rfl

/-- Each subscribed port gets the record of an edge (R114). -/
theorem switches_offerEvents (s : State) (ev : SwitchEvent) (q : Port) :
    ((Port.all.foldl (fun s p => s.offerEvent ev p) s).port q).switches =
      if (s.port q).switches.set.getLsbD ev.switch.val = true then (s.port q).switches.offerEvent ev
      else (s.port q).switches := by
  cases q <;> simp [Port.all, switches_offerEvent]

/-! ## The trigger -/

/-- The state in which a reflex request is the one member of its IDLE channel's queue (R120, R121). -/
def State.requested (s : State) (x : ReflexNo) (c : Chan) : State :=
  (s.modReflex x fun r => { r with state := .waiting, report := .clear }).modChan c fun ch =>
    { ch with
      arrivals := ch.arrivals + 1
      queue := [⟨.reflex x, 8, ch.arrivals⟩]
      front := .channelWait }

theorem chan_requested (s : State) (x : ReflexNo) (c : Chan) :
    (s.requested x c).chan c =
      { s.chan c with
        arrivals := (s.chan c).arrivals + 1
        queue := [⟨.reflex x, 8, (s.chan c).arrivals⟩]
        front := .channelWait } :=
  State.chan_modChan_self (s.modReflex x _) c _

theorem reflexAt_requested (s : State) (x : ReflexNo) (c : Chan) :
    (s.requested x c).reflexAt x = { s.reflexAt x with state := .waiting, report := .clear } := by
  rw [State.requested, State.reflexAt_modChan, State.reflexAt_modReflex_self]

theorem reflexAt_requested_ne (s : State) {x y : ReflexNo} (c : Chan) (h : y ≠ x) :
    (s.requested x c).reflexAt y = s.reflexAt y := by
  rw [State.requested, State.reflexAt_modChan, State.reflexAt_modReflex_ne _ h.symm]

/-- A reflex request asks for a whole kick: a plain one for FIRE, one to be held for FLIP (R22). -/
theorem kickShape_requested (s : State) (x : ReflexNo) (c : Chan) :
    (s.requested x c).kickShape (.reflex x) =
      ⟨16, if (s.reflexAt x).action = .flip then .hold else .plain, 0⟩ := by
  simp only [State.kickShape, reflexAt_requested, Reflex.kickShape]
  cases (s.reflexAt x).action <;> rfl

theorem trigger_eq {s : State} {x : ReflexNo} {c : Chan} (hc : channelOf (s.reflexAt x).channel = some c)
    (hphase : (s.chan c).phase = .idle) (hqueue : (s.chan c).queue = []) (hlist : s.arbiter.list = []) :
    s.trigger x = (s.requested x c).doAll true [.offer [c]] := by
  have henqueue := enqueue_of_idle_empty ⟨.reflex x, 8, (s.chan c).arrivals⟩
    (s := (s.modReflex x fun r => { r with state := .waiting, report := .clear }).modChan c
      fun ch => { ch with arrivals := (s.chan c).arrivals + 1 })
    (c := c) (by simpa using hphase) (by simpa using hqueue) hlist
  simp only [State.trigger, State.arriveRequest, State.reflexAt_modReflex_self, hc, State.chan_modReflex, hphase,
    henqueue]
  rw [State.modChan_modChan]
  exact congrArg (State.doAll · true [.offer [c]]) (State.modChan_congr rfl)

/-- A trigger for an IDLE channel with room on an ON rail and room for the heat kicks in its event (R22, R120). -/
theorem trigger_kicks {s : State} {x : ReflexNo} {c : Chan} (hc : channelOf (s.reflexAt x).channel = some c)
    (hphase : (s.chan c).phase = .idle) (hqueue : (s.chan c).queue = []) (hlist : s.arbiter.list = [])
    (hrail : s.control.rail = .on)
    (hroom : s.arbiter.units + (s.chan c).profile.kickDraw ≤ s.arbiter.budget)
    (hfits : (s.chan c).profile.kickFits ((s.chan c).heatNow s.now) ((s.chan c).profile.kickLength 16) = true) :
    s.trigger x = (s.requested x c).kicked c (.reflex x) := by
  have hchan := chan_requested s x c
  rw [trigger_eq hc hphase hqueue hlist,
    doAll_offer_kicks (s := s.requested x c) (q := ⟨.reflex x, 8, (s.chan c).arrivals⟩) (rest := [])
      (by rw [hchan]; exact hphase) (by rw [hchan]) (by rw [hchan]) hlist hrail (by rw [hchan]; exact hroom)
      (by rw [kickShape_requested, hchan]; exact hfits), doAll_nil]

theorem reflexAct_of_trigger {s : State} {x : ReflexNo} (hstate : (s.reflexAt x).state = .armed)
    (haction : (s.reflexAt x).action ≠ .tilt) : s.reflexAct x true = (.trigger, s.trigger x) := by
  cases h : (s.reflexAt x).action <;> simp [State.reflexAct, State.triggerEdge, hstate, h]
  exact absurd h haction

theorem kicked_reflexAt_self (s : State) (c : Chan) (x : ReflexNo) :
    (s.kicked c (.reflex x)).reflexAt x = { s.reflexAt x with state := .active } := by
  rw [State.kicked, State.tellKick, State.reflexAt_modReflex_self]
  rfl

theorem kicked_reflexAt_ne (s : State) (c : Chan) {x y : ReflexNo} (h : y ≠ x) :
    (s.kicked c (.reflex x)).reflexAt y = s.reflexAt y := by
  rw [State.kicked, State.tellKick, State.reflexAt_modReflex_ne _ h.symm]
  rfl

/-- Settles O49: the edge concerns the entry alone (`reflexEdge_of_one`), its request kicks (`trigger_kicks`), and the
record of the edge goes to each subscribed port (`switches_offerEvents`). -/
theorem reflexKicksAtTheEdge : Obligations.ReflexKicksAtTheEdge := by
  intro s n x c expiry hp hopen hat hle hstate haction hswitch hedge hc hothers hphase hqueue hlist hrail hroom hfits
  let s0 := s.modSwitch n fun sw => { sw with closed := true, debounceAt := none }
  let t := (s0.requested x c).kicked c (.reflex x)
  have hact : s0.reflexAct x true = (.trigger, t) := by
    rw [reflexAct_of_trigger (s := s0) hstate haction, trigger_kicks (s := s0) hc hphase hqueue hlist hrail hroom hfits]
  have hkept : ∀ y, y ≠ x → t.reflexAt y = s0.reflexAt y := fun y hy =>
    (kicked_reflexAt_ne _ c hy).trans (reflexAt_requested_ne s0 c hy)
  have hself : t.reflexAt x = { s.reflexAt x with state := .active, report := .clear } := by
    rw [kicked_reflexAt_self, reflexAt_requested]
    rfl
  have hconcerned : (s0.reflexAt x).concerned n true = true := by
    show (s.reflexAt x).concerned n true = true
    simp [Reflex.concerned, hstate, hswitch, hedge]
  have hreflex := reflexEdge_of_one hconcerned hact hothers hkept
  let ev : SwitchEvent := ⟨n, true, s.time, none, some ⟨x, .trigger, false, false, false⟩⟩
  have hdebounced : s.takeDebounce n = Port.all.foldl (fun s p => s.offerEvent ev p) t := by
    have hdue : s.expired (s.switchAt n).debounceAt = true := by simp [State.expired, hat, hle]
    rw [State.takeDebounce, if_pos hdue]
    have hpart : t.reflexPart (some (x, .trigger)) = ev.reflex := by
      simp [State.reflexPart, hself, ev, Report.clear]
    rw [State.debounced, hopen]
    show s0.edge n true = _
    simp only [State.edge, hreflex, hpart]
    rfl
  obtain ⟨v, hv⟩ := offerEvents_ports ev Port.all t
  have hports := fun q => switches_offerEvents t ev q
  rw [hv] at hports
  have htc : t.chan c = _ := kicked_chan_self (s0.requested x c) c (.reflex x)
  have hchan := chan_requested s0 x c
  refine ⟨_, event_of_powered hp (State.takeDebounce · n), ?_⟩
  rw [hdebounced, hv]
  refine ⟨?_, ?_, gateSixteenths_of_kick ?_ ?_, ?_, ?_, ?_, ?_, fun d hd => ?_, ?_, fun p => ?_⟩
  · show (t.switchAt n).closed = true
    have hswitches : t.switches = s0.switches := rfl
    rw [State.switchAt, hswitches]
    exact congrArg Switch.closed (State.switchAt_modSwitch_self s n _)
  · show (t.chan c).phase = .kick
    rw [htc]
  · exact hp
  · show (t.chan c).phase = .kick
    rw [htc]
  · show (t.chan c).pulse.map _ = _
    rw [htc]
    simp only [Option.map_some, State.kickPulse, kickShape_requested, hchan]
    rfl
  · show (t.reflexAt x).state = _
    rw [hself]
  · show (t.reflexAt x).report = _
    rw [hself]
  · show t.arbiter.units = _
    rw [kicked_arbiter, hchan]
    rfl
  · show t.chan d = s.chan d
    rw [kicked_chan_ne _ hd]
    exact State.chan_modChan_ne _ hd.symm _
  · rfl
  · rw [port_decideLines]
    refine (hports p).trans ?_
    rw [kicked_port]
    rfl

end Sys2Proof.Machine

/-!
SUPPORT. The recycle expiry: the channel that is left, what its owner does, and the offer that follows.
-/

namespace Sys2Proof.Machine

/-! ## The channel at the recycle expiry -/

/-- A channel whose recycle is over: IDLE or FAULTED, with its heat up to date, its pulse gone and its short check
started if the rail and SENSE ask for it (R27, R29, R31). -/
def State.recycled (s : State) (c : Chan) (phase : Phase) (fault : Option FaultRecord) : State :=
  s.modChan c fun ch =>
    { ch with
      phase := phase
      heat := ch.heatNow s.now
      heatAt := s.now
      pulse := none
      fault := fault
      shortAt := s.shortStarted c }

theorem chan_recycled_self (s : State) (c : Chan) (phase : Phase) (fault : Option FaultRecord) :
    (s.recycled c phase fault).chan c =
      { s.chan c with
        phase := phase
        heat := (s.chan c).heatNow s.now
        heatAt := s.now
        pulse := none
        fault := fault
        shortAt := s.shortStarted c } := by
  rw [State.recycled, State.chan_modChan_self]

theorem chan_recycled_ne (s : State) {c d : Chan} (h : d ≠ c) (phase : Phase) (fault : Option FaultRecord) :
    (s.recycled c phase fault).chan d = s.chan d := State.chan_modChan_ne _ h.symm _

@[simp] theorem now_recycled (s : State) (c : Chan) (phase : Phase) (fault : Option FaultRecord) :
    (s.recycled c phase fault).now = s.now := rfl

theorem heatNow_recycled (s : State) (c : Chan) (phase : Phase) (fault : Option FaultRecord) :
    ((s.recycled c phase fault).chan c).heatNow s.now = (s.chan c).heatNow s.now := by
  rw [chan_recycled_self]
  exact heatNow_of_fresh rfl (heatAfter_le ..)

@[simp] theorem entry_recycled (s : State) (c : Chan) (phase : Phase) (fault : Option FaultRecord) (p : Port)
    (tag : Byte) : (s.recycled c phase fault).entry p tag = s.entry p tag := rfl

@[simp] theorem liveEntry_decideLines (s : State) (p : Port) (tag : Byte) :
    s.decideLines.liveEntry p tag = s.liveEntry p tag := rfl

/-- The change of a recycling channel's state with the removal of its pulse, and the short check, are one write. -/
theorem startShort_setPhase {s : State} {c : Chan} {phase : Phase} {fault : Option FaultRecord} {g : Channel → Channel}
    (hphase : (s.chan c).phase = .recycle) (hwatched : phase.isWatched = true)
    (hg : g { (s.chan c).updateHeat s.now with phase := phase } =
      { (s.chan c).updateHeat s.now with phase := phase, pulse := none, fault := fault }) :
    ((s.setPhase c phase).modChan c g).startShort c = s.recycled c phase fault := by
  have hlive : phase.isLive = false := by
    rcases (Phase.isWatched_iff phase).mp hwatched with rfl | rfl | rfl <;> rfl
  have hrest := setPhase_of_rest (s := s) (c := c) (by rw [hphase]; rfl) hlive
  have hchan : ((s.setPhase c phase).modChan c g).chan c =
      { (s.chan c).updateHeat s.now with phase := phase, pulse := none, fault := fault } := by
    rw [chan_setPhase_modChan, if_pos rfl, hg]
  have hshort : ((s.setPhase c phase).modChan c g).shortStarted c = s.shortStarted c := by
    simp only [State.shortStarted, hchan]
    rfl
  rw [startShort_of_watched (by rw [hchan]; exact hwatched), hshort, hrest, State.modChan_modChan,
    State.modChan_modChan]
  refine State.modChan_congr ?_
  simp only [hg]
  rfl

/-- The recycle expiry without a latched fault, up to what the owner does (R27). -/
theorem recycleOver_of_sound {s : State} {c : Chan} {pu : Pulse} (hphase : (s.chan c).phase = .recycle)
    (hpu : (s.chan c).pulse = some pu) (hlatched : pu.latched = none) :
    s.recycleOver c = (s.recycled c .idle (s.chan c).fault).tellRecycleEnd c pu false := by
  simp only [State.recycleOver, hpu, hlatched]
  rw [startShort_setPhase hphase (by rfl) (fault := (s.chan c).fault) (by rfl)]

/-- The fault record that a pulse with a latched fault leaves (R29). -/
def Pulse.faultRecord (pu : Pulse) (kind : FaultKind) (moment : Nat) : FaultRecord :=
  ⟨kind, stampOf moment, pu.owner⟩

/-- The recycle expiry with a latched fault (R29). -/
theorem recycleOver_of_latched {s : State} {c : Chan} {pu : Pulse} {kind : FaultKind} {moment : Nat}
    (hphase : (s.chan c).phase = .recycle) (hpu : (s.chan c).pulse = some pu)
    (hlatched : pu.latched = some (kind, moment)) :
    let told := (s.recycled c .faulted (some (pu.faultRecord kind moment))).tellRecycleEnd c pu true
    s.recycleOver c =
      (told.1 ++ (told.2.withdrawRequests c .channelFault).endQueued c .channelFault,
        (told.2.withdrawRequests c .channelFault).setFaultEdges) := by
  simp only [State.recycleOver, hpu, hlatched]
  rw [startShort_setPhase hphase (by rfl) (fault := some (pu.faultRecord kind moment)) (by rfl)]

theorem takeRecycle_of_due {s : State} {c : Chan} {pu : Pulse} {expiry : Nat} (hphase : (s.chan c).phase = .recycle)
    (hpu : (s.chan c).pulse = some pu) (hat : pu.recycleAt = some expiry) (hle : expiry ≤ s.now) :
    s.takeRecycle c = s.recycleEnd c :=
  if_pos (by simp [recycleDue, hphase, hpu, State.expired, hat, hle])

theorem recycleEnd_of_over {s t : State} {c : Chan} {ends : List Work} (h : s.recycleOver c = (ends, t)) :
    s.recycleEnd c = (t.doAll true ends).doAll true [.offer [c]] := by
  simp only [State.recycleEnd, h]

theorem withdrawRequests_of_empty {s : State} {c : Chan} (h : (s.chan c).queue = []) (cause : DropCause) :
    s.withdrawRequests c cause = s := by
  simp only [State.withdrawRequests, h, List.foldl_nil]
  exact State.modChan_of_eq (by rw [h, List.filter_nil, ← h])

theorem endQueued_of_empty {s : State} {c : Chan} (h : (s.chan c).queue = []) (status : EndStatus) :
    s.endQueued c status = [] := by
  simp [State.endQueued, h]

/-- The end of a live order in no channel queue that none follows, with an empty ring behind it: its record alone. -/
theorem doAll_finish_of_live {s : State} {p : Port} {tag : Byte} {e : Entry} (hlive : s.liveEntry p tag = some e)
    (hqueue : ∀ q ∈ (s.chan e.order.channel).queue, q.owner ≠ .order p tag)
    (hfollow : ∀ g ∈ s.table, g.follows p tag = false) (hring : (s.port p).ring.slots = []) (status : EndStatus)
    (ex : Bool) : s.doAll ex [.finish p tag status] = s.conclude e status := by
  obtain ⟨hport, -⟩ := liveEntry_is hlive
  have hfollow' : ∀ g ∈ (s.conclude e status).table, g.follows p tag = false := fun g hg =>
    Bool.eq_false_iff.mpr fun h => by simp [hfollow g (mem_of_follows_conclude hg h)] at h
  have hrun : Work.run ex (.finish p tag status) s = ⟨[], [.takes p], s.conclude e status⟩ := by
    simp only [Work.run, finish, hlive, isTestingFront_of_absent hqueue, State.leaveQueue_of_absent hqueue,
      Bool.false_eq_true, if_false, List.append_nil, followerWork_of_none hfollow']
  have hring' : ((s.conclude e status).port p).ring.slots = [] := by
    rw [← hport, conclude_ring, hport]
    exact hring
  rw [doAll_cons, hrun, List.nil_append, List.nil_append, doAll_takes_of_empty hring', doAll_nil]

end Sys2Proof.Machine

/-!
The recycle expiry after a step of a TRAIN.
-/

namespace Sys2Proof.Machine

theorem liveEntry_of_entry {s : State} {p : Port} {tag : Byte} {e : Entry} (h : s.entry p tag = some e)
    (hlive : e.live = true) : s.liveEntry p tag = some e := by
  obtain ⟨his, before, after, hsplit, hbefore⟩ := List.find?_eq_some_iff_append.mp h
  refine List.find?_eq_some_iff_append.mpr ⟨by rw [his, hlive]; rfl, before, after, hsplit, fun a ha => ?_⟩
  have hnot := hbefore a ha
  simp only [Bool.not_eq_true'] at hnot
  simp [hnot]

/-- The live entry of a port and tag after a change of entries that keeps their ports, orders and lives. -/
theorem liveEntry_modEntry {s : State} {q : Port} {t : Byte} {f : Entry → Entry}
    (hf : ∀ e, (f e).port = e.port ∧ (f e).order = e.order ∧ (f e).live = e.live) (p : Port) (tag : Byte) :
    (s.modEntry q t f).liveEntry p tag = (s.liveEntry p tag).map fun e => if e.is q t then f e else e := by
  have hsame : ∀ e : Entry, ((if e.is q t then f e else e).is p tag && (if e.is q t then f e else e).live) =
      (e.is p tag && e.live) := fun e => by
    obtain ⟨hport, horder, hlive⟩ := hf e
    split
    · rw [Entry.is, Entry.is, hport, horder, hlive]
    · rfl
  simp only [State.liveEntry, State.modEntry, List.find?_map, Function.comp_def, hsame]

theorem entry_modEntry {s : State} {q : Port} {t : Byte} {f : Entry → Entry}
    (hf : ∀ e, (f e).port = e.port ∧ (f e).order = e.order) (p : Port) (tag : Byte) :
    (s.modEntry q t f).entry p tag = (s.entry p tag).map fun e => if e.is q t then f e else e := by
  have hsame : ∀ e : Entry, (if e.is q t then f e else e).is p tag = e.is p tag := fun e => by
    obtain ⟨hport, horder⟩ := hf e
    split
    · rw [Entry.is, Entry.is, hport, horder]
    · rfl
  simp only [State.entry, State.modEntry, List.find?_map, Function.comp_def, hsame]

theorem Entry.order_moveTo (e : Entry) (stage : Stage) : (e.moveTo stage).order = e.order := by
  unfold Entry.moveTo
  split <;> rfl

theorem Entry.live_moveTo {e : Entry} {stage : Stage} (h : stage ≠ .doneHeld) : (e.moveTo stage).live = e.live := by
  have hne : (stage != .doneHeld) = true := by simpa using h
  unfold Entry.moveTo
  split
  · rename_i hlive
    rw [hlive]
    exact hne
  · rfl

/-! ## What a step leads to -/

section

variable {s : State} {c : Chan} {pu : Pulse} {e : Entry}

/-- The owner of a TRAIN's pulse is its live entry, which takes its step (R27, R89). -/
theorem tellRecycleEnd_of_train (howner : pu.owner = .order e.port e.order.tag) (howned : pu.owned = true)
    (hlive : s.liveEntry e.port e.order.tag = some e) (faulted : Bool) :
    s.tellRecycleEnd c pu faulted = s.trainStep c e faulted := by
  simp only [State.tellRecycleEnd, howned, howner, hlive, if_true]

/-- A TRAIN that is over ends with the first of the causes that hold (R89). -/
theorem trainStep_of_over (h : e.lastCause = some .overtime ∨ e.stopAfterStep = true ∨ e.order.count ≤ e.steps) :
    s.trainStep c e false =
      ([.finish e.port e.order.tag (if e.lastCause = some .overtime then .overtime
        else if e.stopAfterStep = true then .cancelled else .done)], s) := by
  by_cases hover : e.lastCause = some .overtime
  · simp [State.trainStep, hover]
  · by_cases hstop : e.stopAfterStep = true
    · simp [State.trainStep, hover, hstop]
    · have hcount : e.order.count ≤ e.steps := (h.resolve_left hover).resolve_left hstop
      simp [State.trainStep, hover, hstop, hcount]

/-- The state in which a TRAIN has returned to its channel queue at the arrival position of its first arrival (R89). -/
def State.returned (s : State) (c : Chan) (e : Entry) (a : Nat) : State :=
  (s.modEntry e.port e.order.tag (·.moveTo .queued)).modChan c fun ch =>
    { ch with queue := insertQueue ⟨.order e.port e.order.tag, e.order.priority, a⟩ ch.queue }

theorem trainStep_of_next {a : Nat} (hover : e.lastCause ≠ some .overtime) (hstop : e.stopAfterStep = false)
    (hcount : e.steps < e.order.count) (harrival : e.arrival = some a) :
    s.trainStep c e false = ([], s.returned c e a) := by
  simp [State.trainStep, hover, hstop, Nat.not_le.mpr hcount, harrival, State.returned]

theorem chan_returned (a : Nat) :
    (s.returned c e a).chan c =
      { s.chan c with
        queue := insertQueue ⟨.order e.port e.order.tag, e.order.priority, a⟩ (s.chan c).queue } := by
  rw [State.returned, State.chan_modChan_self]
  rfl

theorem liveEntry_returned (hlive : s.liveEntry e.port e.order.tag = some e) (a : Nat) :
    (s.returned c e a).liveEntry e.port e.order.tag = some (e.moveTo .queued) := by
  have hmod := liveEntry_modEntry (s := s) (q := e.port) (t := e.order.tag) (f := (·.moveTo .queued))
    (fun x => ⟨KeptCore.moveTo_port x _, x.order_moveTo _, Entry.live_moveTo (by decide)⟩)
    e.port e.order.tag
  rw [hlive, Option.map_some, if_pos e.is_self] at hmod
  exact hmod

/-- A TRAIN that has returned asks for a whole plain kick with its gap (R22). -/
theorem kickShape_returned (hentry : s.entry e.port e.order.tag = some e) (hkind : e.order.kind = .train) (a : Nat) :
    (s.returned c e a).kickShape (.order e.port e.order.tag) = ⟨16, .plain, e.order.gap⟩ := by
  have hmod := entry_modEntry (s := s) (q := e.port) (t := e.order.tag) (f := (·.moveTo .queued))
    (fun x => ⟨KeptCore.moveTo_port x _, x.order_moveTo _⟩) e.port e.order.tag
  rw [hentry, Option.map_some, if_pos e.is_self] at hmod
  have hreturned : (s.returned c e a).entry e.port e.order.tag = some (e.moveTo .queued) := hmod
  simp only [State.kickShape, hreturned, Option.map_some, Option.getD_some, Order.kickShape, e.order_moveTo, hkind]

/-- The entry of an order whose kick has started (R86). -/
theorem liveEntry_kicked {p : Port} {tag : Byte} (hlive : s.liveEntry p tag = some e) :
    (s.kicked c (.order p tag)).liveEntry p tag =
      some { e with stage := .running, steps := e.steps + 1, firstKick := e.firstKick.or (some s.time) } := by
  have hmod := liveEntry_modEntry (s := s) (q := p) (t := tag)
    (f := fun e => { e.moveTo .running with steps := e.steps + 1, firstKick := e.firstKick.or (some s.time) })
    (fun x => ⟨KeptCore.moveTo_port x _, x.order_moveTo _, Entry.live_moveTo (by decide)⟩) p tag
  have his : e.is p tag = true := Entry.is_iff.mpr (liveEntry_is hlive)
  have hlive' : e.live = true :=
    (Bool.and_eq_true_iff.mp (List.find?_some (p := fun e : Entry => e.is p tag && e.live) hlive)).2
  rw [hlive, Option.map_some, if_pos his, Entry.moveTo_of_live hlive'] at hmod
  rw [State.liveEntry, kicked_table]
  exact hmod

/-- A TRAIN that returns alone to its IDLE channel, with room on an ON rail and room for the heat, kicks at once. -/
theorem doAll_offer_returned (hentry : s.entry e.port e.order.tag = some e) (hkind : e.order.kind = .train)
    (hphase : (s.chan c).phase = .idle) (hqueue : (s.chan c).queue = []) (hfront : (s.chan c).front = .channelWait)
    (hrail : s.control.rail = .on) (hlist : s.arbiter.list = [])
    (hroom : s.arbiter.units + (s.chan c).profile.kickDraw ≤ s.arbiter.budget - s.arbiter.reserve)
    (hfits : (s.chan c).profile.kickFits ((s.chan c).heatNow s.now) (s.chan c).profile.kickTime = true) (a : Nat) :
    (s.returned c e a).doAll true [.offer [c]] = (s.returned c e a).kicked c (.order e.port e.order.tag) := by
  have hchan := chan_returned (s := s) (c := c) (e := e) a
  have hfits' : ((s.returned c e a).chan c).profile.kickFits (((s.returned c e a).chan c).heatNow s.now)
      (((s.returned c e a).chan c).profile.kickLength
        ((s.returned c e a).kickShape (.order e.port e.order.tag)).fraction) = true := by
    rw [kickShape_returned hentry hkind, Profile.kickLength_full, hchan]
    exact hfits
  refine (doAll_offer_kicks (s := s.returned c e a) (q := ⟨.order e.port e.order.tag, e.order.priority, a⟩) (rest := [])
    (by rw [hchan]; exact hphase) (by rw [hchan]; exact hfront) (by rw [hchan, hqueue]; rfl) hlist hrail
    (by rw [hchan]; exact hroom) hfits' []).trans (doAll_nil ..)

/-- The pulse of its next step (R22, R88). -/
theorem kickPulse_returned (hentry : s.entry e.port e.order.tag = some e) (hkind : e.order.kind = .train) (a : Nat) :
    let pu := (s.returned c e a).kickPulse c (.order e.port e.order.tag)
    (pu.owner, pu.kind, pu.start, pu.kickLength, pu.recycleLength) =
      (.order e.port e.order.tag, .plain, s.now, (s.chan c).profile.kickTime,
        (s.chan c).profile.recycle + e.order.gap) := by
  simp only [State.kickPulse, kickShape_returned hentry hkind, chan_returned, Profile.kickLength_full]
  rfl

end

/-- Entries that agree in what a wait for rail or for cooling leaves. -/
def Entry.SamePlace (e e' : Entry) : Prop := e'.stage = e.stage ∧ e'.steps = e.steps ∧ e'.arrival = e.arrival

theorem liveEntry_tellRailWait {s : State} {p : Port} {tag : Byte} {e : Entry} (h : s.liveEntry p tag = some e)
    (o : Owner) : ∃ e', (s.tellRailWait o).liveEntry p tag = some e' ∧ e.SamePlace e' := by
  cases o with
  | order q t =>
    have hmod := liveEntry_modEntry (s := s) (q := q) (t := t) (f := fun e => { e with railWaited := true })
      (fun _ => ⟨rfl, rfl, rfl⟩) p tag
    rw [h, Option.map_some] at hmod
    refine ⟨_, hmod, ?_⟩
    split <;> exact ⟨rfl, rfl, rfl⟩
  | reflex x => exact ⟨e, h, rfl, rfl, rfl⟩

theorem liveEntry_tellHeatWait {s : State} {p : Port} {tag : Byte} {e : Entry} (h : s.liveEntry p tag = some e)
    (o : Owner) : ∃ e', (s.tellHeatWait o).liveEntry p tag = some e' ∧ e.SamePlace e' := by
  cases o with
  | order q t =>
    have hmod := liveEntry_modEntry (s := s) (q := q) (t := t) (f := fun e => { e with heatWaited := true })
      (fun _ => ⟨rfl, rfl, rfl⟩) p tag
    rw [h, Option.map_some] at hmod
    refine ⟨_, hmod, ?_⟩
    split <;> exact ⟨rfl, rfl, rfl⟩
  | reflex x => exact ⟨e, h, rfl, rfl, rfl⟩

theorem chan_tellRailWait (s : State) (o : Owner) (c : Chan) : (s.tellRailWait o).chan c = s.chan c := by
  cases o <;> rfl

theorem chan_tellHeatWait (s : State) (o : Owner) (c : Chan) : (s.tellHeatWait o).chan c = s.chan c := by
  cases o <;> rfl

/-- With the rail not ON an offer of a front that is not too large leaves the queue and the orders' places. -/
theorem doAll_offer_of_railOff {s : State} {c : Chan} {p : Port} {tag : Byte} {e : Entry}
    (hphase : (s.chan c).phase = .idle) (hrail : s.control.rail ≠ .on)
    (hsize : ∀ q, (s.chan c).queue.head? = some q → s.sizeOk c q.owner = true)
    (hlive : s.liveEntry p tag = some e) :
    let t := s.doAll true [.offer [c]]
    (t.chan c).phase = .idle ∧ (t.chan c).queue = (s.chan c).queue
      ∧ ∃ e', t.liveEntry p tag = some e' ∧ e.SamePlace e' := by
  intro t
  cases hwaits : s.awaitsOffer c with
  | false =>
    have ht : t = s := (doAll_offer_of_none (by simpa using hwaits) true []).trans (doAll_nil ..)
    rw [ht]
    exact ⟨hphase, rfl, e, hlive, rfl, rfl, rfl⟩
  | true =>
    cases hqueue : (s.chan c).queue with
    | nil => rw [awaitsOffer_of_empty hqueue] at hwaits; cases hwaits
    | cons q rest =>
      have hfront : (s.chan c).front = .channelWait := by
        simp only [State.awaitsOffer, Bool.and_eq_true, beq_iff_eq] at hwaits
        exact hwaits.1.2
      have hok : s.sizeOk c q.owner = true := hsize q (by rw [hqueue]; rfl)
      have ht : t = s.kickTest true c :=
        (doAll_offer_of_sizeOk hphase hfront hqueue hok true []).trans (doAll_nil ..)
      rw [ht]
      cases hfits : (s.chan c).profile.kickFits ((s.chan c).heatNow s.now)
        ((s.chan c).profile.kickLength (s.kickShape q.owner).fraction) with
      | true =>
        rw [kickTest_of_fits hqueue hfits, join_of_railOff (by exact hrail), chan_tellRailWait, chan_joined,
          State.updateHeat, State.chan_modChan_self]
        exact ⟨hphase, hqueue, liveEntry_tellRailWait (s := (s.updateHeat c).joined c q) hlive _⟩
      | false =>
        rw [kickTest_of_unfit hqueue hfits, chan_tellHeatWait, State.chan_modChan_self]
        exact ⟨hphase, hqueue, liveEntry_tellHeatWait (s := s.modChan c _) hlive _⟩

/-- The end of an order leaves a channel that has nothing to offer so. -/
theorem doAll_offer_of_concluded {s : State} {c : Chan} {e : Entry} {status : EndStatus}
    (h : (s.chan c).queue = []) :
    (s.conclude e status).doAll true [.offer [c]] = s.conclude e status := by
  have hnone : (s.conclude e status).awaitsOffer c = false := awaitsOffer_of_empty (by rw [conclude_chan]; exact h)
  exact (doAll_offer_of_none (by simpa using hnone) true []).trans (doAll_nil ..)

/-- Settles O39: the owner's step (`tellRecycleEnd_of_train`) is the end of its order (`trainStep_of_over`,
`doAll_finish_of_live`) or its return (`trainStep_of_next`), after which the front is offered. -/
theorem trainStepsAtTheRecycleExpiry : Obligations.TrainStepsAtTheRecycleExpiry := by
  intro s c pu e expiry hp hphase hpu howner howned hat hle hentry hstage hkind hchannel p pr heat short alone
  have hlive : s.liveEntry e.port e.order.tag = some e :=
    liveEntry_of_entry hentry (by rw [Entry.live, hstage]; rfl)
  have hexec : exec (.recycleExpiry c) s = .next (s.recycleEnd c).decideLines :=
    (event_of_powered hp (State.takeRecycle · c)).trans (by rw [takeRecycle_of_due hphase hpu hat hle])
  have hstep := fun phase fault faulted =>
    tellRecycleEnd_of_train (s := s.recycled c phase fault) (c := c) howner howned hlive faulted
  have hqueued := fun phase fault => congrArg Channel.queue (chan_recycled_self s c phase fault)
  have hended : ∀ (t : State) (status : EndStatus), t.table = s.table →
      (t.port p).ring = (s.port p).ring → (t.chan c).queue = (s.chan c).queue → alone →
      s.recycleOver c = ([.finish e.port e.order.tag status], t) →
      exec (.recycleExpiry c) s = .next (t.conclude e status).decideLines := by
    intro t status htable hring hqueue halone hover
    obtain ⟨hempty, hrings, hfollow⟩ := halone
    rw [hempty] at hqueue
    have hend : t.doAll true [.finish e.port e.order.tag status] = t.conclude e status :=
      doAll_finish_of_live (by rw [State.liveEntry, htable]; exact hlive) (by rw [hchannel, hqueue]; nofun)
        (by rw [htable]; exact hfollow) (by rw [hring]; exact hrings) status true
    rw [hexec, recycleEnd_of_over hover, hend, doAll_offer_of_concluded hqueue]
  refine ⟨fun kind moment hlatched halone => ?_, fun hlatched => ?_⟩
  · have hover := recycleOver_of_latched hphase hpu hlatched
    have hempty := (hqueued .faulted (some (pu.faultRecord kind moment))).trans halone.1
    simp only [hstep, State.trainStep, if_true, withdrawRequests_of_empty hempty, endQueued_of_empty hempty,
      List.append_nil] at hover
    exact hended (s.recycled c .faulted (some (pu.faultRecord kind moment))).setFaultEdges .channelFault rfl
      (by cases p <;> rfl) (hqueued ..) halone hover
  · intro idled
    have hidled : idled = s.recycled c .idle (s.chan c).fault := State.modChan_congr rfl
    have hover := recycleOver_of_sound hphase hpu hlatched
    rw [hstep, ← hidled] at hover
    refine ⟨fun halone hcauses => ?_, fun a hcause hstop hcount harrival => ?_⟩
    · rw [trainStep_of_over hcauses] at hover
      exact hended idled _ rfl rfl (by rw [hidled]; exact hqueued ..) halone hover
    · intro back
      rw [trainStep_of_next hcause hstop hcount harrival] at hover
      have hend : s.recycleEnd c = (idled.returned c e a).doAll true [.offer [c]] := by
        rw [recycleEnd_of_over hover, doAll_nil]
      have hchan := chan_returned (s := idled) (c := c) (e := e) a
      rw [hidled, chan_recycled_self, ← hidled] at hchan
      have hback : ((idled.returned c e a).chan c).queue = back := by rw [hchan, ← howner]
      have hlive' : (idled.returned c e a).liveEntry e.port e.order.tag = some { e with stage := .queued } := by
        rw [← Entry.moveTo_of_live (e := e) (by rw [Entry.live, hstage]; rfl)]
        exact liveEntry_returned (s := idled) hlive a
      refine ⟨fun hrail hsize => ?_, fun hempty hfront hrail hlist hroom hfits => ?_⟩
      · obtain ⟨hidle, hkept, e', he', hstage', hsteps', harrival'⟩ :=
          doAll_offer_of_railOff (s := idled.returned c e a) (c := c) (by rw [hchan]) hrail
            (fun q hq => by
              rw [hback] at hq
              rw [State.sizeOk, hchan]
              exact hsize q hq) hlive'
        refine ⟨_, hexec, ?_⟩
        rw [hend, State.chan_decideLines, liveEntry_decideLines]
        exact ⟨hidle, hkept.trans hback, e', he', hstage', hsteps', harrival'.trans harrival⟩
      · have hentry' := (entry_recycled s c .idle (s.chan c).fault e.port e.order.tag).trans hentry
        have hkicks := doAll_offer_returned hentry' hkind
          (by rw [chan_recycled_self]) (by rw [chan_recycled_self]; exact hempty)
          (by rw [chan_recycled_self]; exact hfront) hrail hlist (by rw [chan_recycled_self]; exact hroom)
          (by rw [now_recycled, heatNow_recycled, chan_recycled_self]; exact hfits) a
        have hpulse := kickPulse_returned (c := c) hentry' hkind a
        have hself := kicked_chan_self (idled.returned c e a) c (.order e.port e.order.tag)
        rw [chan_recycled_self] at hpulse
        rw [← hidled] at hkicks hpulse
        refine ⟨_, hexec, ?_⟩
        rw [hend, hkicks, State.chan_decideLines, liveEntry_decideLines, State.decideLines_arbiter, hself,
          kicked_arbiter]
        refine ⟨rfl, ?_, ?_, ?_, _, liveEntry_kicked hlive', rfl, rfl, rfl⟩
        · rw [hback]
          simp [back, hempty, howner, insertQueue]
        · rw [howner]
          exact congrArg some hpulse
        · rw [hchan]
          rfl

end Sys2Proof.Machine

/-!
SUPPORT. Orders that end at a channel that is out of service: what those ends leave of the channel, and, where no order
follows another, of the rest of the part.
-/

namespace Sys2Proof.Machine

/-! ## Parts done one after another -/

/-- What each part of an event keeps of the parts left and of the state, the event keeps. -/
theorem doAll_induct (ex : Bool) {I : List Work → State → Prop}
    (step : ∀ w ws s, I (w :: ws) s → I ((w.run ex s).next ++ ws ++ (w.run ex s).last) (w.run ex s).state)
    (ws : List Work) (s : State) (h : I ws s) : I [] (s.doAll ex ws) := by
  induction hn : workBound ws s using Nat.strong_induction_on generalizing ws s with
  | _ n ih =>
    subst hn
    cases ws with
    | nil => rw [doAll_nil]; exact h
    | cons w ws =>
      rw [doAll_cons]
      exact ih _ (run_bound ex w ws s) _ _ (step w ws s h) rfl

/-! ## Away from one channel -/

/-- A state that differs from another away from a channel: neither the channel nor a port's record moved, the live
orders are the same, none became a follower, and no member of the channel joined the admission list. -/
structure State.Aside (c : Chan) (t s : State) : Prop where
  chan : t.chan c = s.chan c
  ports : t.ports = s.ports
  orders : ∀ p tag, (t.liveEntry p tag).map (·.order) = (s.liveEntry p tag).map (·.order)
  follow : (∀ e ∈ s.table, ∀ n, e.stage ≠ .following n) → ∀ e ∈ t.table, ∀ n, e.stage ≠ .following n
  listed : ∀ m ∈ t.arbiter.list, m.channel = c → m ∈ s.arbiter.list

section Aside

variable {c : Chan}

theorem State.Aside.refl (s : State) : s.Aside c s := ⟨rfl, rfl, fun _ _ => rfl, id, fun _ hm _ => hm⟩

theorem State.Aside.trans {r s t : State} (h : t.Aside c s) (h' : s.Aside c r) : t.Aside c r where
  chan := h.chan.trans h'.chan
  ports := h.ports.trans h'.ports
  orders p tag := (h.orders p tag).trans (h'.orders p tag)
  follow hr := h.follow (h'.follow hr)
  listed m hm hc := h'.listed m (h.listed m hm hc) hc

theorem aside_modChan {s : State} {d : Chan} (hd : d ≠ c) (f : Channel → Channel) : (s.modChan d f).Aside c s :=
  { State.Aside.refl s with chan := State.chan_modChan_ne s hd f }

theorem aside_setPhase {s : State} {d : Chan} (hd : d ≠ c) (ph : Phase) : (s.setPhase d ph).Aside c s :=
  { State.Aside.refl s with chan := by rw [chan_setPhase, if_neg hd] }

theorem aside_reflexes (s : State) (v : Vector Reflex 16) : State.Aside c { s with reflexes := v } s :=
  { State.Aside.refl s with }

theorem aside_list {s : State} (a : Arbiter) (h : ∀ m ∈ a.list, m.channel = c → m ∈ s.arbiter.list) :
    State.Aside c { s with arbiter := a } s :=
  { State.Aside.refl s with listed := h }

theorem aside_modEntry (s : State) (p : Port) (tag : Byte) {f : Entry → Entry}
    (hf : ∀ e, (f e).port = e.port ∧ (f e).order = e.order ∧ (f e).live = e.live)
    (hstage : ∀ e n, (f e).stage = .following n → e.stage = .following n) : (s.modEntry p tag f).Aside c s where
  chan := rfl
  ports := rfl
  orders q t := by
    rw [liveEntry_modEntry hf, Option.map_map]
    refine Option.map_congr fun e _ => ?_
    simp only [Function.comp_apply]
    split
    · exact (hf e).2.1
    · rfl
  follow h e he n hn := by
    obtain ⟨g, hg, rfl⟩ := List.mem_map.mp he
    split at hn
    · exact h g hg n (hstage g n hn)
    · exact h g hg n hn
  listed _ hm _ := hm

theorem aside_tellRailWait (s : State) (o : Owner) : (s.tellRailWait o).Aside c s := by
  cases o with
  | order p tag => exact aside_modEntry s p tag (fun _ => ⟨rfl, rfl, rfl⟩) fun _ _ h => h
  | reflex x => exact aside_reflexes s _

theorem aside_tellHeatWait (s : State) (o : Owner) : (s.tellHeatWait o).Aside c s := by
  cases o with
  | order p tag => exact aside_modEntry s p tag (fun _ => ⟨rfl, rfl, rfl⟩) fun _ _ h => h
  | reflex x => exact aside_reflexes s _

theorem Entry.stage_moveTo {e : Entry} {stage : Stage} {n : Byte}
    (hn : (e.moveTo stage).stage = .following n) : stage = .following n := by
  unfold Entry.moveTo at hn
  split at hn
  · exact hn
  · rename_i hlive
    simp only [Entry.live, bne_iff_ne, ne_eq, not_not] at hlive
    rw [hlive] at hn
    cases hn

theorem aside_tellKick (s : State) (o : Owner) : (s.tellKick o).Aside c s := by
  cases o with
  | order p tag =>
    refine aside_modEntry s p tag
      (fun e => ⟨KeptCore.moveTo_port e _, e.order_moveTo _, Entry.live_moveTo (by decide)⟩) fun e n hn => ?_
    have hrunning := Entry.stage_moveTo (e := e) (stage := .running) hn
    cases hrunning
  | reflex x => exact aside_reflexes s _

theorem aside_grant {s : State} {m : Member} (hm : m.channel ≠ c) : (s.grant m).Aside c s :=
  (aside_tellKick _ _).trans ((aside_modChan hm _).trans (aside_setPhase hm .kick))

variable {s : State}

/-- Grants are made to IDLE channels alone (R14, R65). -/
theorem aside_examineFrom (l : List Member) :
    ∀ s : State, (s.chan c).phase ≠ .idle → (∀ m ∈ l, m.channel = c → m ∈ s.arbiter.list) →
      (examineFrom l s).Aside c s := by
  induction l with
  | nil => exact fun s _ _ => .refl s
  | cons m l ih =>
    intro s hout hl
    rw [examineFrom]
    split
    · rename_i hfit
      simp only [Bool.and_eq_true, beq_iff_eq] at hfit
      have hm : m.channel ≠ c := fun h => hout (h ▸ hfit.2)
      have hrest : ∀ m ∈ l, m.channel = c → m ∈ s.arbiter.list := fun m hm => hl m (List.mem_cons_of_mem _ hm)
      have hgrant := (aside_grant (s := { s with arbiter := { s.arbiter with list := l } }) hm).trans
        (aside_list (c := c) { s.arbiter with list := l } hrest)
      refine (ih _ (by rw [hgrant.chan]; exact hout) fun x hx _ => ?_).trans hgrant
      cases hm' : m.owner <;> simpa [State.grant, State.tellKick, hm', State.setPhase, Arbiter.swapDraw] using hx
    · exact .refl s

theorem aside_examineIf (hout : (s.chan c).phase ≠ .idle) (ex : Bool) : (s.examineIf ex).Aside c s := by
  cases ex
  · exact .refl s
  · exact aside_examineFrom _ s hout fun _ hm _ => hm

variable {d : Chan}

theorem aside_join (hout : (s.chan c).phase ≠ .idle) (hd : d ≠ c) (ex : Bool) (q : QueueMember) :
    (s.join ex d q).Aside c s := by
  have hjoined : (s.joined d q).Aside c s := by
    refine (aside_modChan hd _).trans (aside_list _ fun m hm hc => ?_)
    rcases List.mem_cons.mp ((insertMember_perm _ _).mem_iff.mp hm) with rfl | hm
    · exact absurd hc hd
    · exact hm
  cases ex
  · exact hjoined
  · have hexamine := (aside_examineIf (by rw [hjoined.chan]; exact hout) true).trans hjoined
    rw [join_eq]
    split
    · exact (aside_tellRailWait _ _).trans hexamine
    · exact hexamine

theorem aside_depart (hout : (s.chan c).phase ≠ .idle) (ex : Bool) (d : Chan) : (s.depart ex d).Aside c s := by
  unfold State.depart
  split
  · refine (aside_examineIf (by exact hout) ex).trans (aside_list _ fun m hm _ => (List.mem_filter.mp hm).1)
  · exact .refl s

theorem aside_kickTest (hout : (s.chan c).phase ≠ .idle) (hd : d ≠ c) (ex : Bool) : (s.kickTest ex d).Aside c s := by
  have hheat : (s.updateHeat d).Aside c s := aside_modChan hd _
  unfold State.kickTest
  split
  · exact .refl s
  · dsimp only
    split
    · exact (aside_join (by rw [hheat.chan]; exact hout) hd ex _).trans hheat
    · exact (aside_tellHeatWait _ _).trans ((aside_modChan hd _).trans hheat)

theorem aside_leaveQueue (hout : (s.chan c).phase ≠ .idle) (hd : d ≠ c) (ex : Bool) (o : Owner) :
    (s.leaveQueue ex d o).Aside c s := by
  unfold State.leaveQueue
  dsimp only
  split
  · refine (aside_depart ?_ ex d).trans (aside_modChan hd _)
    rw [State.chan_modChan_ne _ hd]
    exact hout
  · exact aside_modChan hd _

end Aside

/-! ## The end of an order -/

/-- An ended order has no live entry; the others keep theirs (R90). -/
theorem liveEntry_conclude (s : State) (e : Entry) (status : EndStatus) (p : Port) (tag : Byte) :
    (s.conclude e status).liveEntry p tag = if e.is p tag then none else s.liveEntry p tag := by
  have hkey : ∀ g : Entry, g.is p tag = true → g.is e.port e.order.tag = e.is p tag := fun g hg => by
    obtain ⟨rfl, rfl⟩ := Entry.is_iff.mp hg
    rw [Bool.eq_iff_iff, Entry.is_iff, Entry.is_iff, eq_comm (a := g.port), eq_comm (a := g.order.tag)]
  rcases conclude_table s e status with ht | ht <;> rw [State.liveEntry, ht]
  · rw [State.freeEntry, List.find?_filter]
    split
    · rename_i he
      refine List.find?_eq_none.mpr fun g _ => ?_
      cases hg : g.is p tag
      · simp
      · simp [hkey g hg, he]
    · rename_i he
      refine congrArg (List.find? · s.table) (funext fun g => ?_)
      cases hg : g.is p tag
      · simp
      · simp [hkey g hg, he]
  · simp only [State.modEntry, List.find?_map]
    split
    · rename_i he
      refine Option.map_eq_none_iff.mpr (List.find?_eq_none.mpr fun g _ => ?_)
      cases hg : g.is p tag
      · cases hge : g.is e.port e.order.tag
        · simp [hge, hg]
        · simp [hge, Entry.live]
      · simp [hkey g hg, he, Entry.live]
    · rename_i he
      have hpred : ((fun g : Entry => g.is p tag && g.live) ∘ fun g : Entry =>
          if g.is e.port e.order.tag = true then { g with stage := .doneHeld } else g) =
            fun g => g.is p tag && g.live := funext fun g => by
        cases hg : g.is p tag
        · cases hge : g.is e.port e.order.tag
          · simp [hge, hg]
          · simp [hge, Entry.live]
        · simp [hkey g hg, he, hg]
      rw [hpred]
      cases hfound : s.table.find? fun g => g.is p tag && g.live with
      | none => exact hfound.symm
      | some g =>
        have hg := List.find?_some (p := fun g : Entry => g.is p tag && g.live) hfound
        simp only [Bool.and_eq_true] at hg
        rw [Option.map_some, hkey g hg.1, if_neg he]
        exact hfound.symm

theorem conclude_rings (s : State) (e : Entry) (status : EndStatus) (p : Port) :
    ((s.conclude e status).port p).ring = (s.port p).ring := by
  by_cases hp : e.port = p
  · rw [← hp, conclude_ring]
  · obtain ⟨f, l, h, -⟩ := conclude_shape s e status
    rw [h]
    exact congrArg PortState.ring (State.port_modPort_ne s hp f)

/-- All that an end leaves: every table but the pending one, and the ports but that of its order. -/
theorem conclude_rest (s : State) (e : Entry) (status : EndStatus) :
    (s.conclude e status).channels = s.channels ∧ (s.conclude e status).reflexes = s.reflexes
      ∧ (s.conclude e status).arbiter = s.arbiter := by
  obtain ⟨f, l, h, -⟩ := conclude_shape s e status
  rw [h]
  exact ⟨rfl, rfl, rfl⟩

theorem conclude_noFollow {s : State} (h : ∀ e ∈ s.table, ∀ n, e.stage ≠ .following n) (e : Entry)
    (status : EndStatus) : ∀ g ∈ (s.conclude e status).table, ∀ n, g.stage ≠ .following n := by
  intro g hg n hn
  have hfollows : g.follows g.port n = true := by simp [Entry.follows, hn]
  exact h g (mem_of_follows_conclude hg hfollows) n hn

/-- The records of a port, in its queue and held, after an end (R93, R95, R98). -/
theorem conclude_records (s : State) (e : Entry) (status : EndStatus) (p : Port) :
    ((s.conclude e status).port p).completions ++ ((s.conclude e status).port p).held =
      (s.port p).completions ++ (s.port p).held ++
        if e.port = p ∧ e.order.quiet = false then [e.record status s.time] else [] := by
  by_cases hp : e.port = p
  · subst hp
    unfold State.conclude
    cases hquiet : e.order.quiet
    · simp only [Bool.false_eq_true, if_false]
      split
      · rename_i henters
        have hheld : (s.port e.port).held = [] := by
          simpa [PortState.recordEnters] using (Bool.and_eq_true_iff.mp henters).2
        simp [hheld]
      · simp
    · simp
  · obtain ⟨f, l, h, -⟩ := conclude_shape s e status
    have hport : (s.conclude e status).port p = s.port p := by
      rw [h]
      exact State.port_modPort_ne s hp f
    simp [hport, hp]

/-! ## An end at a channel that is out of service -/

/-- The state in which an owner has left the queue of a channel that is not IDLE (R34). -/
def State.dequeued (s : State) (c : Chan) (o : Owner) : State :=
  s.modChan c fun ch => { ch with queue := ch.queue.filter fun q => q.owner != o }

theorem chan_dequeued (s : State) (c : Chan) (o : Owner) :
    (s.dequeued c o).chan c = { s.chan c with queue := (s.chan c).queue.filter fun q => q.owner != o } := by
  rw [State.dequeued, State.chan_modChan_self]

theorem isTestingFront_of_out {ch : Channel} (hout : ch.phase ≠ .idle) (o : Owner) : ch.isTestingFront o = false := by
  simp [Channel.isTestingFront, hout]

theorem leaveQueue_of_out {s : State} {c : Chan} (hout : (s.chan c).phase ≠ .idle) (ex : Bool) (o : Owner) :
    s.leaveQueue ex c o = s.dequeued c o := by
  simp only [State.leaveQueue, isTestingFront_of_out hout, Bool.false_eq_true, if_false]
  rfl

/-- Nothing is taken from empty rings. -/
theorem takeHead_of_empty {s : State} {p : Port} (h : (s.port p).ring.slots = []) : takeHead p s = ⟨[], [], s⟩ := by
  simp only [takeHead, h]

/-! ## The queue of a channel out of service -/

/-- A part that ends an order badly, offers fronts or takes from a ring. -/
def Work.EndsBadly : Work → Prop
  | .finish _ _ status => status.good = false
  | .offer _ => True
  | .takes _ => True
  | .ready _ _ => False
  | .arrive _ _ => False

/-- Where the queue of a channel out of service stands while its orders end: `u` is the state before the ends, and every
order that was in the queue has ended, or its end is among the parts left. -/
structure EmptiesQueue (c : Chan) (u : State) (ws : List Work) (t : State) : Prop where
  works : ∀ w ∈ ws, w.EndsBadly
  out : (t.chan c).phase ≠ .idle
  rest : { t.chan c with queue := [] } = { u.chan c with queue := [] }
  sub : ∀ q ∈ (t.chan c).queue, q ∈ (u.chan c).queue
  rings : ∀ p, (t.port p).ring.slots = []
  orders : ∀ q ∈ (t.chan c).queue, ∃ p tag o, q.owner = .order p tag
    ∧ (t.liveEntry p tag).map (·.order) = some o ∧ o.channel = c
  ended : ∀ q ∈ (u.chan c).queue, ∀ p tag, q.owner = .order p tag →
    t.liveEntry p tag = none ∨ ∃ status, Work.finish p tag status ∈ ws
  listed : ∀ m ∈ t.arbiter.list, m.channel = c → m ∈ u.arbiter.list

namespace EmptiesQueue

variable {c : Chan} {u t : State} {ws ws' : List Work}

/-- A part that moves the state away from the channel alone, and keeps every end that is still to come. -/
theorem of_aside {t' : State} (h : EmptiesQueue c u ws t) (ht : t'.Aside c t) (hworks : ∀ w ∈ ws', w.EndsBadly)
    (hended : ∀ p tag status, Work.finish p tag status ∈ ws →
      t.liveEntry p tag = none ∨ ∃ status, Work.finish p tag status ∈ ws') :
    EmptiesQueue c u ws' t' where
  works := hworks
  out := by rw [ht.chan]; exact h.out
  rest := by rw [ht.chan]; exact h.rest
  sub := by rw [ht.chan]; exact h.sub
  rings p := by rw [State.port, ht.ports]; exact h.rings p
  orders q hq := by
    rw [ht.chan] at hq
    obtain ⟨p, tag, o, howner, ho, hc⟩ := h.orders q hq
    exact ⟨p, tag, o, howner, (ht.orders p tag).trans ho, hc⟩
  ended q hq p tag howner := by
    have hnone : t.liveEntry p tag = none → t'.liveEntry p tag = none := fun hn =>
      Option.map_eq_none_iff.mp ((ht.orders p tag).trans (Option.map_eq_none_iff.mpr hn))
    rcases h.ended q hq p tag howner with hn | ⟨status, hmem⟩
    · exact .inl (hnone hn)
    · exact (hended p tag status hmem).imp_left hnone
  listed m hm hc := h.listed m (ht.listed m hm hc) hc

theorem tail {w : Work} (h : EmptiesQueue c u (w :: ws) t) : ∀ w ∈ ws, w.EndsBadly :=
  fun w hw => h.works w (List.mem_cons_of_mem _ hw)

theorem offer {cs : List Chan} (h : EmptiesQueue c u (.offer cs :: ws) t) (ex : Bool) :
    EmptiesQueue c u ((Machine.offer ex cs t).next ++ ws ++ (Machine.offer ex cs t).last)
      (Machine.offer ex cs t).state := by
  have hkeep : ∀ (next : List Work) (t' : State), t'.Aside c t → (∀ w ∈ next, w.EndsBadly) →
      EmptiesQueue c u (next ++ ws ++ []) t' := fun next t' ht hnext =>
    h.of_aside ht
      (fun w hw => by
        rw [List.append_nil, List.mem_append] at hw
        exact hw.elim (hnext w) (h.tail w))
      (fun p tag status hmem => .inr ⟨status, by
        have := (List.mem_cons.mp hmem).resolve_left (by nofun)
        simp [this]⟩)
  unfold Machine.offer
  split
  · exact hkeep [] t (.refl t) nofun
  · rename_i d hnext
    have hidle : (t.chan d).phase = .idle := by
      have hwaits := (nextOffer_mem hnext).2
      simp only [State.awaitsOffer, Bool.and_eq_true, beq_iff_eq] at hwaits
      exact hwaits.1.1
    have hd : d ≠ c := fun hdc => h.out (hdc ▸ hidle)
    split
    · exact hkeep [] t (.refl t) nofun
    · split
      · exact hkeep [_] _ (aside_kickTest h.out hd ex) (by simp [Work.EndsBadly])
      · have hleft := fun o => aside_leaveQueue h.out hd ex o
        dsimp only
        split
        · exact hkeep [_, _] _ (hleft _) (by simp [Work.EndsBadly, EndStatus.good])
        · exact hkeep [_] _ ((aside_reflexes _ _).trans (hleft _)) (by simp [Work.EndsBadly])

/-- An order that ends stands in the queue of a channel out of service no more, wherever it stood. -/
theorem leaveQueue {p : Port} {tag : Byte} {e : Entry} (h : EmptiesQueue c u ws t)
    (hlive : t.liveEntry p tag = some e) (ex : Bool) :
    EmptiesQueue c u ws (t.leaveQueue ex e.order.channel (.order p tag))
      ∧ ∀ q ∈ ((t.leaveQueue ex e.order.channel (.order p tag)).chan c).queue, q.owner ≠ .order p tag := by
  by_cases hc : e.order.channel = c
  · rw [hc, leaveQueue_of_out h.out]
    have hchan := chan_dequeued t c (.order p tag)
    have hmem : ∀ q ∈ ((t.dequeued c (.order p tag)).chan c).queue,
        q ∈ (t.chan c).queue ∧ q.owner ≠ .order p tag := fun q hq => by
      rw [hchan] at hq
      simpa using hq
    exact ⟨{ h with
      out := by rw [hchan]; exact h.out
      rest := by rw [hchan]; exact h.rest
      sub := fun q hq => h.sub q (hmem q hq).1
      orders := fun q hq => h.orders q (hmem q hq).1 }, fun q hq => (hmem q hq).2⟩
  · have haside := aside_leaveQueue (s := t) h.out hc ex (.order p tag)
    refine ⟨h.of_aside haside h.works fun _ _ status hmem => .inr ⟨status, hmem⟩, fun q hq howner => ?_⟩
    rw [haside.chan] at hq
    obtain ⟨p', tag', o, howner', ho, hoc⟩ := h.orders q hq
    obtain ⟨rfl, rfl⟩ : p' = p ∧ tag' = tag := by
      rw [howner] at howner'
      injection howner' with hp ht
      exact ⟨hp.symm, ht.symm⟩
    rw [hlive] at ho
    exact hc ((congrArg Order.channel (Option.some.inj ho)).trans hoc)

/-- The record and the entry of an order that ends. -/
theorem conclude {e : Entry} (h : EmptiesQueue c u ws t)
    (hgone : ∀ q ∈ (t.chan c).queue, q.owner ≠ .order e.port e.order.tag) (status : EndStatus)
    (hworks : ∀ w ∈ ws', w.EndsBadly)
    (hended : ∀ p tag status, Work.finish p tag status ∈ ws →
      e.is p tag = true ∨ ∃ status, Work.finish p tag status ∈ ws') :
    EmptiesQueue c u ws' (t.conclude e status) where
  works := hworks
  out := by rw [conclude_chan]; exact h.out
  rest := by rw [conclude_chan]; exact h.rest
  sub := by rw [conclude_chan]; exact h.sub
  rings p := by rw [conclude_rings]; exact h.rings p
  orders q hq := by
    rw [conclude_chan] at hq
    obtain ⟨p, tag, o, howner, ho, hc⟩ := h.orders q hq
    have hne : ¬ e.is p tag = true := fun his => by
      obtain ⟨rfl, rfl⟩ := Entry.is_iff.mp his
      exact hgone q hq howner
    exact ⟨p, tag, o, howner, by rw [liveEntry_conclude, if_neg hne, ho], hc⟩
  ended q hq p tag howner := by
    rw [liveEntry_conclude]
    split
    · exact .inl rfl
    · rename_i his
      rcases h.ended q hq p tag howner with hn | ⟨status, hmem⟩
      · exact .inl hn
      · exact .inr ((hended p tag status hmem).resolve_left his)
  listed := by rw [(conclude_rest t e status).2.2]; exact h.listed

theorem finish {p : Port} {tag : Byte} {status : EndStatus} (h : EmptiesQueue c u (.finish p tag status :: ws) t)
    (ex : Bool) :
    EmptiesQueue c u ((Machine.finish ex p tag status t).next ++ ws ++ (Machine.finish ex p tag status t).last)
      (Machine.finish ex p tag status t).state := by
  have hstatus : status.good = false := h.works _ (List.mem_cons_self ..)
  unfold Machine.finish
  split
  · rename_i hnone
    refine h.of_aside (.refl t) (by simpa using h.tail) fun p' tag' status' hmem => ?_
    rcases List.mem_cons.mp hmem with heq | hmem
    · cases heq
      exact .inl hnone
    · exact .inr ⟨status', by simp [hmem]⟩
  · rename_i e hlive
    obtain ⟨hleft, hgone⟩ := h.leaveQueue hlive ex
    obtain ⟨rfl, rfl⟩ := liveEntry_is hlive
    have hfollower : ∀ s : State, ∀ w ∈ s.followerWork e.port e.order.tag false, w.EndsBadly := fun s w hw => by
      unfold State.followerWork at hw
      split at hw
      · cases hw
      · rw [List.mem_singleton.mp hw]
        exact rfl
    refine hleft.conclude hgone status (fun w hw => ?_) fun p' tag' status' hmem => ?_
    · rw [hstatus] at hw
      simp only [List.mem_append, List.mem_singleton] at hw
      rcases hw with ((hw | hw) | hw) | rfl
      · exact hfollower _ w hw
      · split at hw
        · rw [List.mem_singleton.mp hw]; trivial
        · cases hw
      · exact h.tail w hw
      · trivial
    · rcases List.mem_cons.mp hmem with heq | hmem
      · cases heq
        exact .inl e.is_self
      · exact .inr ⟨status', by simp [hmem]⟩

theorem run {w : Work} (h : EmptiesQueue c u (w :: ws) t) (ex : Bool) :
    EmptiesQueue c u ((w.run ex t).next ++ ws ++ (w.run ex t).last) (w.run ex t).state := by
  cases w with
  | offer cs => exact h.offer ex
  | finish p tag status => exact h.finish ex
  | ready p tag => exact (h.works _ (List.mem_cons_self ..)).elim
  | arrive p tag => exact (h.works _ (List.mem_cons_self ..)).elim
  | takes p =>
    rw [Work.run, takeHead_of_empty (h.rings p)]
    exact h.of_aside (.refl t) (by simpa using h.tail) fun p' tag' status hmem =>
      .inr ⟨status, by simpa using hmem⟩

/-- When every part is done the queue is empty. -/
theorem queue_nil (h : EmptiesQueue c u [] t) : (t.chan c).queue = [] := by
  refine List.eq_nil_iff_forall_not_mem.mpr fun q hq => ?_
  obtain ⟨p, tag, o, howner, ho, -⟩ := h.orders q hq
  rcases h.ended q (h.sub q hq) p tag howner with hn | ⟨status, hmem⟩
  · rw [hn] at ho; cases ho
  · cases hmem

end EmptiesQueue

/-- A channel out of service whose queue holds live orders of its own alone, with nothing to take: what the ends of its
queue find (R20, R29). -/
structure OutOfService (s : State) (c : Chan) : Prop where
  out : (s.chan c).phase ≠ .idle
  rings : ∀ p, (s.port p).ring.slots = []
  orders : ∀ q ∈ (s.chan c).queue, ∃ p tag e, q.owner = .order p tag
    ∧ s.liveEntry p tag = some e ∧ e.order.channel = c

theorem finish_mem_endQueued {s : State} {c : Chan} {q : QueueMember} {p : Port} {tag : Byte} {e : Entry}
    (hq : q ∈ (s.chan c).queue) (howner : q.owner = .order p tag) (hlive : s.liveEntry p tag = some e)
    (status : EndStatus) : Work.finish p tag status ∈ s.endQueued c status := by
  obtain ⟨rfl, rfl⟩ := liveEntry_is hlive
  exact List.mem_map.mpr ⟨e, List.mem_filter.mpr ⟨List.mem_of_find?_eq_some hlive,
    List.any_eq_true.mpr ⟨q, hq, by simp [howner]⟩⟩, rfl⟩

/-- All the orders in the queue of a channel out of service end, and leave it empty (R20, R29, R96). -/
theorem OutOfService.ends {s : State} {c : Chan} (h : OutOfService s c) {status : EndStatus}
    (hstatus : status.good = false) (ex : Bool) :
    EmptiesQueue c s [] (s.doAll ex (s.endQueued c status)) := by
  refine doAll_induct ex (fun _ _ _ h => h.run ex) _ _ ⟨fun w hw => ?_, h.out, rfl, fun _ hq => hq, h.rings,
    fun q hq => ?_, fun q hq p tag howner => ?_, fun _ hm _ => hm⟩
  · obtain ⟨e, -, rfl⟩ := List.mem_map.mp hw
    exact hstatus
  · obtain ⟨p, tag, e, howner, hlive, hc⟩ := h.orders q hq
    exact ⟨p, tag, e.order, howner, by rw [hlive]; rfl, hc⟩
  · obtain ⟨p', tag', e, howner', hlive, -⟩ := h.orders q hq
    rw [howner] at howner'
    injection howner' with hp ht
    subst hp ht
    exact .inr ⟨status, finish_mem_endQueued hq howner hlive status⟩

/-! ## Ends that nothing follows -/

/-- The end of a live order of a channel out of service that none follows: its record alone (R90). -/
theorem run_finish_of_out {s : State} {c : Chan} {p : Port} {tag : Byte} {e : Entry} (hout : (s.chan c).phase ≠ .idle)
    (hfollow : ∀ e ∈ s.table, ∀ n, e.stage ≠ .following n) (hlive : s.liveEntry p tag = some e)
    (hc : e.order.channel = c) (status : EndStatus) (ex : Bool) :
    Work.run ex (.finish p tag status) s = ⟨[], [.takes p], (s.dequeued c (.order p tag)).conclude e status⟩ := by
  have hnone := followerWork_of_none (s := (s.dequeued c (.order p tag)).conclude e status) (p := p) (tag := tag)
    (fun g hg => by
      have hg' := conclude_noFollow (s := s.dequeued c (.order p tag)) hfollow e status g hg tag
      simp [Entry.follows, hg']) status.good
  simp only [Work.run, Machine.finish, hlive, hc, leaveQueue_of_out hout, isTestingFront_of_out hout, hnone,
    Bool.false_eq_true, if_false, List.append_nil]

/-- What a list of ends at a channel out of service finds when none of its orders is followed. -/
structure EndsAlone (c : Chan) (l : List Entry) (s : State) : Prop where
  out : (s.chan c).phase ≠ .idle
  rings : ∀ p, (s.port p).ring.slots = []
  follow : ∀ e ∈ s.table, ∀ n, e.stage ≠ .following n
  orders : ∀ e ∈ l, ∀ e', s.liveEntry e.port e.order.tag = some e' → e'.order.channel = c

/-- The parts that end a list of orders, with takes behind them. -/
def endings (l : List Entry) (status : EndStatus) (ps : List Port) : List Work :=
  (l.map fun e => .finish e.port e.order.tag status) ++ ps.map .takes

theorem doAll_takes_of_rings {s : State} {status : EndStatus} (h : ∀ p, (s.port p).ring.slots = []) (ex : Bool)
    (ps : List Port) : s.doAll ex (endings [] status ps) = s := by
  induction ps with
  | nil => exact doAll_nil ex s
  | cons p ps ih => exact (doAll_takes_of_empty (h p) ex _).trans ih

namespace EndsAlone

variable {c : Chan} {e e' : Entry} {l : List Entry} {s : State}

theorem tail (h : EndsAlone c (e :: l) s) : EndsAlone c l s :=
  { h with orders := fun x hx => h.orders x (List.mem_cons_of_mem _ hx) }

/-- The state after the first end. -/
theorem conclude (h : EndsAlone c (e :: l) s) (o : Owner) (e' : Entry) (status : EndStatus) :
    EndsAlone c l ((s.dequeued c o).conclude e' status) where
  out := by rw [conclude_chan, chan_dequeued]; exact h.out
  rings p := by rw [conclude_rings]; exact h.rings p
  follow := conclude_noFollow (s := s.dequeued c o) h.follow e' status
  orders x hx g hg := by
    rw [liveEntry_conclude] at hg
    split at hg
    · cases hg
    · exact h.orders x (List.mem_cons_of_mem _ hx) g hg

theorem doAll_of_ended (hlive : s.liveEntry e.port e.order.tag = none) (ex : Bool) (status : EndStatus)
    (ps : List Port) : s.doAll ex (endings (e :: l) status ps) = s.doAll ex (endings l status ps) := by
  have hrun : Work.run ex (.finish e.port e.order.tag status) s = ⟨[], [], s⟩ := by
    simp only [Work.run, Machine.finish, hlive]
  rw [endings, List.map_cons, List.cons_append, doAll_cons, hrun, List.nil_append, List.append_nil, endings]

theorem doAll_of_live (h : EndsAlone c (e :: l) s) (hlive : s.liveEntry e.port e.order.tag = some e') (ex : Bool)
    (status : EndStatus) (ps : List Port) :
    s.doAll ex (endings (e :: l) status ps) =
      ((s.dequeued c (.order e.port e.order.tag)).conclude e' status).doAll ex
        (endings l status (ps ++ [e.port])) := by
  have hc := h.orders e (List.mem_cons_self ..) e' hlive
  rw [endings, List.map_cons, List.cons_append, doAll_cons, run_finish_of_out h.out h.follow hlive hc, endings,
    List.nil_append, List.map_append, List.append_assoc]
  rfl

/-- The ends write the queue of their channel, the pending table and the ports' records alone. -/
theorem frame (h : EndsAlone c l s) (ex : Bool) (status : EndStatus) :
    ∀ ps, let t := s.doAll ex (endings l status ps)
      (∀ d, d ≠ c → t.chan d = s.chan d) ∧ t.reflexes = s.reflexes ∧ t.arbiter = s.arbiter := by
  induction l generalizing s with
  | nil =>
    intro ps
    rw [doAll_takes_of_rings h.rings]
    exact ⟨fun _ _ => rfl, rfl, rfl⟩
  | cons e l ih =>
    intro ps
    cases hlive : s.liveEntry e.port e.order.tag with
    | none =>
      rw [doAll_of_ended hlive]
      exact ih h.tail ps
    | some e' =>
      rw [h.doAll_of_live hlive]
      obtain ⟨hchans, hreflexes, harbiter⟩ := ih (h.conclude (.order e.port e.order.tag) e' status) (ps ++ [e.port])
      obtain ⟨-, hreflexes', harbiter'⟩ := conclude_rest (s.dequeued c (.order e.port e.order.tag)) e' status
      refine ⟨fun d hd => (hchans d hd).trans ?_, hreflexes.trans hreflexes', harbiter.trans harbiter'⟩
      rw [conclude_chan, State.dequeued, State.chan_modChan_ne _ hd.symm]

/-- Each live order that ends leaves its record, in the order of the ends (R93, R96). -/
theorem records (h : EndsAlone c l s) (hsole : ∀ e ∈ l, SoleIn s.table e)
    (hkeys : (l.map fun e => (e.port, e.order.tag)).Nodup) (ex : Bool) (status : EndStatus) (p : Port) :
    ∀ ps, let t := s.doAll ex (endings l status ps)
      (t.port p).completions ++ (t.port p).held =
        (s.port p).completions ++ (s.port p).held ++
          (l.filter fun e => e.port == p && e.live && !e.order.quiet).map fun e => e.record status s.time := by
  induction l generalizing s with
  | nil =>
    intro ps
    rw [doAll_takes_of_rings h.rings]
    simp
  | cons e l ih =>
    intro ps
    rw [List.map_cons, List.nodup_cons] at hkeys
    obtain ⟨hfresh, hkeys⟩ := hkeys
    have he := hsole e (List.mem_cons_self ..)
    cases hl : e.live with
    | false =>
      have hnone : s.liveEntry e.port e.order.tag = none := by
        refine List.find?_eq_none.mpr fun x hx hxe => ?_
        simp only [Bool.and_eq_true] at hxe
        rw [he.unique x hx hxe.1, hl] at hxe
        exact Bool.false_ne_true hxe.2
      rw [doAll_of_ended hnone, List.filter_cons_of_neg (by simp [hl])]
      exact ih h.tail (fun x hx => hsole x (List.mem_cons_of_mem _ hx)) hkeys ps
    | true =>
      have hlive := he.liveEntry hl
      have hother : ∀ x ∈ l, x.is e.port e.order.tag = false := fun x hx => by
        refine Bool.eq_false_iff.mpr fun his => hfresh (List.mem_map.mpr ⟨x, hx, ?_⟩)
        obtain ⟨hport, htag⟩ := Entry.is_iff.mp his
        rw [hport, htag]
      have hrecords := conclude_records (s.dequeued c (.order e.port e.order.tag)) e status p
      rw [h.doAll_of_live hlive]
      refine (ih (h.conclude _ e status)
        (fun x hx => SoleIn.conclude (s := s.dequeued c _) (hsole x (List.mem_cons_of_mem _ hx)) (hother x hx) status)
        hkeys (ps ++ [e.port])).trans ?_
      rw [hrecords, conclude_time, List.filter_cons]
      have hsame : ∀ o, (s.dequeued c o).port p = s.port p ∧ (s.dequeued c o).time = s.time := fun _ => ⟨rfl, rfl⟩
      obtain ⟨hport, htime⟩ := hsame (.order e.port e.order.tag)
      rw [hport, htime]
      by_cases hrecord : e.port = p ∧ e.order.quiet = false
      · rw [if_pos hrecord, if_pos (by simp [hrecord, hl])]
        simp
      · rw [if_neg hrecord, if_neg (by simpa [hl] using hrecord), List.append_nil]

end EndsAlone

end Sys2Proof.Machine

/-!
SUPPORT. Reflex requests that their channel withdraws, and the CHANNEL_FAULT edges.
-/

namespace Sys2Proof.Machine

/-! ## The requests of a queue -/

/-- An entry whose request its channel dropped or withdrew (R121). -/
def Reflex.dropped (r : Reflex) (mode : Mode) (cause : DropCause) : Reflex :=
  { r with state := r.afterDrop mode, report := { r.report with drop := some cause } }

/-- Whether a member of a queue is a port order. -/
def QueueMember.isOrder (q : QueueMember) : Bool :=
  match q.owner with
  | .order _ _ => true
  | .reflex _ => false

theorem QueueMember.isOrder_iff {q : QueueMember} : q.isOrder = true ↔ ∃ p tag, q.owner = .order p tag := by
  unfold QueueMember.isOrder
  cases q.owner <;> simp

/-- What a withdrawal does for each member of the queue. -/
def withdrawn (cause : DropCause) (s : State) (q : QueueMember) : State :=
  match q.owner with
  | .order _ _ => s
  | .reflex x => s.dropRequest x cause

/-- Withdrawals write the reflex table alone: each entry with a request among the members is dropped, once or more. -/
theorem foldl_withdrawn (cause : DropCause) (l : List QueueMember) :
    ∀ s : State, ∃ v, l.foldl (withdrawn cause) s = { s with reflexes := v }
      ∧ ∀ y, State.reflexAt { s with reflexes := v } y =
        if ∃ q ∈ l, q.owner = .reflex y then (s.reflexAt y).dropped s.control.mode cause else s.reflexAt y := by
  induction l with
  | nil => exact fun s => ⟨s.reflexes, rfl, fun y => by simp⟩
  | cons q l ih =>
    intro s
    cases hq : q.owner with
    | order p tag =>
      obtain ⟨v, hv, hread⟩ := ih s
      refine ⟨v, ?_, fun y => ?_⟩
      · rw [List.foldl_cons, ← hv, withdrawn, hq]
      · rw [hread y]
        simp [hq]
    | reflex x =>
      obtain ⟨v, hv, hread⟩ := ih (s.dropRequest x cause)
      refine ⟨v, ?_, fun y => ?_⟩
      · rw [List.foldl_cons, withdrawn, hq]
        exact hv
      · have hdropped : (s.dropRequest x cause).reflexAt y =
            if y = x then (s.reflexAt y).dropped s.control.mode cause else s.reflexAt y := by
          by_cases hy : y = x
          · subst hy
            rw [if_pos rfl, State.dropRequest, State.reflexAt_modReflex_self]
            rfl
          · rw [if_neg hy, State.dropRequest, State.reflexAt_modReflex_ne _ (Ne.symm hy)]
        refine (hread y).trans ?_
        have hmode : (s.dropRequest x cause).control.mode = s.control.mode := rfl
        rw [hdropped, hmode]
        by_cases hy : y = x
        · subst hy
          simp [hq, Reflex.dropped, Reflex.afterDrop, Reflex.isArmed]
        · simp [hq, hy, Ne.symm hy]

/-- A channel whose queue holds its orders alone. -/
def Channel.ordersOnly (ch : Channel) : Channel := { ch with queue := ch.queue.filter QueueMember.isOrder }

theorem withdrawRequests_eq (s : State) (c : Chan) (cause : DropCause) :
    s.withdrawRequests c cause =
      (s.chan c).queue.foldl (withdrawn cause)
        (s.modChan c Channel.ordersOnly) := rfl

/-- A withdrawal writes the queue of its channel and the reflex table. -/
theorem withdrawRequests_shape (s : State) (c : Chan) (cause : DropCause) :
    ∃ v, s.withdrawRequests c cause =
        { s.modChan c Channel.ordersOnly with reflexes := v }
      ∧ ∀ y, (s.withdrawRequests c cause).reflexAt y =
        if ∃ q ∈ (s.chan c).queue, q.owner = .reflex y then (s.reflexAt y).dropped s.control.mode cause
        else s.reflexAt y := by
  obtain ⟨v, hv, hread⟩ := foldl_withdrawn cause (s.chan c).queue
    (s.modChan c Channel.ordersOnly)
  rw [withdrawRequests_eq, hv]
  exact ⟨v, rfl, hread⟩

theorem reflexAt_withdrawRequests (s : State) (c : Chan) (cause : DropCause) (y : ReflexNo) :
    (s.withdrawRequests c cause).reflexAt y =
      if ∃ q ∈ (s.chan c).queue, q.owner = .reflex y then (s.reflexAt y).dropped s.control.mode cause
      else s.reflexAt y := by
  obtain ⟨_, -, hread⟩ := withdrawRequests_shape s c cause
  exact hread y

theorem chan_withdrawRequests (s : State) (c : Chan) (cause : DropCause) :
    (s.withdrawRequests c cause).chan c =
      { s.chan c with queue := (s.chan c).queue.filter QueueMember.isOrder } := by
  obtain ⟨v, hv, -⟩ := withdrawRequests_shape s c cause
  rw [hv]
  exact State.chan_modChan_self s c Channel.ordersOnly

theorem chan_withdrawRequests_ne (s : State) {c d : Chan} (h : d ≠ c) (cause : DropCause) :
    (s.withdrawRequests c cause).chan d = s.chan d := by
  obtain ⟨v, hv, -⟩ := withdrawRequests_shape s c cause
  rw [hv]
  exact State.chan_modChan_ne s h.symm Channel.ordersOnly

/-- What a withdrawal leaves. -/
theorem withdrawRequests_rest (s : State) (c : Chan) (cause : DropCause) :
    (s.withdrawRequests c cause).table = s.table ∧ (s.withdrawRequests c cause).ports = s.ports
      ∧ (s.withdrawRequests c cause).arbiter = s.arbiter ∧ (s.withdrawRequests c cause).now = s.now := by
  obtain ⟨v, hv, -⟩ := withdrawRequests_shape s c cause
  rw [hv]
  exact ⟨rfl, rfl, rfl, rfl⟩

/-! ## The ends of a queue -/

/-- The entries of the orders in a channel's queue, in the order of their takes (R96). -/
def State.queuedEntries (s : State) (c : Chan) : List Entry :=
  s.table.filter fun e => (s.chan c).queue.any fun q => q.owner == .order e.port e.order.tag

theorem endQueued_eq (s : State) (c : Chan) (status : EndStatus) :
    s.endQueued c status = endings (s.queuedEntries c) status [] := by
  rw [endings, List.map_nil, List.append_nil]
  rfl

theorem soleIn_of_nodup {table : List Entry} (h : (table.map fun e => (e.port, e.order.tag)).Nodup) {e : Entry}
    (he : e ∈ table) : SoleIn table e :=
  .of_unique he fun _ hx hport htag => List.inj_on_of_nodup_map h hx he (Prod.ext hport htag)

namespace OutOfService

variable {s : State} {c : Chan}

/-- A channel out of service after the withdrawal of its requests. -/
theorem of_withdrawn (hout : (s.chan c).phase ≠ .idle) (hrings : ∀ p, (s.port p).ring.slots = [])
    (horders : ∀ q ∈ (s.chan c).queue, ∀ p tag, q.owner = .order p tag →
      ∃ e, s.liveEntry p tag = some e ∧ e.order.channel = c) (cause : DropCause) :
    OutOfService (s.withdrawRequests c cause) c := by
  obtain ⟨htable, hports, -⟩ := withdrawRequests_rest s c cause
  refine ⟨by rw [chan_withdrawRequests]; exact hout, fun p => by rw [State.port, hports]; exact hrings p,
    fun q hq => ?_⟩
  rw [chan_withdrawRequests] at hq
  obtain ⟨hmem, horder⟩ := List.mem_filter.mp hq
  obtain ⟨p, tag, howner⟩ := QueueMember.isOrder_iff.mp horder
  obtain ⟨e, hlive, hc⟩ := horders q hmem p tag howner
  exact ⟨p, tag, e, howner, by rw [State.liveEntry, htable]; exact hlive, hc⟩

theorem endsAlone (h : OutOfService s c) (hfollow : ∀ e ∈ s.table, ∀ n, e.stage ≠ .following n) :
    EndsAlone c (s.queuedEntries c) s where
  out := h.out
  rings := h.rings
  follow := hfollow
  orders e he e' hlive := by
    obtain ⟨q, hq, howner⟩ := List.any_eq_true.mp (List.mem_filter.mp he).2
    obtain ⟨p, tag, g, howner', hg, hc⟩ := h.orders q hq
    rw [beq_iff_eq, howner'] at howner
    injection howner with hp ht
    subst hp ht
    rw [hlive] at hg
    exact Option.some.inj hg ▸ hc

/-- The records of the orders that end, in the order of their takes, when none is followed (R93, R96). -/
theorem records (h : OutOfService s c) (hfollow : ∀ e ∈ s.table, ∀ n, e.stage ≠ .following n)
    (hkeys : (s.table.map fun e => (e.port, e.order.tag)).Nodup) (status : EndStatus) (ex : Bool) (p : Port) :
    let t := s.doAll ex (s.endQueued c status)
    (t.port p).completions ++ (t.port p).held =
      (s.port p).completions ++ (s.port p).held ++
        (s.table.filter fun e => e.port == p && e.live && !e.order.quiet &&
          (s.chan c).queue.any fun q => q.owner == .order e.port e.order.tag).map fun e =>
            e.record status s.time := by
  have hsub : (s.queuedEntries c).Sublist s.table := List.filter_sublist
  have hrecords := (h.endsAlone hfollow).records (fun e he => soleIn_of_nodup hkeys (hsub.subset he))
    (hkeys.sublist (hsub.map _)) ex status p []
  rw [State.queuedEntries, List.filter_filter] at hrecords
  rw [endQueued_eq]
  exact hrecords

end OutOfService

end Sys2Proof.Machine

/-!
The recycle expiry after a reflex entry's pulse.
-/

namespace Sys2Proof.Machine

/-! ## The CHANNEL_FAULT edges -/

theorem kept_faultEdges : KeptCore fun s => ∀ p, (s.port p).attention.faultEdge = true where
  ports _ v hv h q := by
    obtain ⟨-, -, -, -, -, -, -, hfault, -⟩ := hv q
    exact hfault (h q)
  table _ _ _ h := h
  coil _ _ _ _ _ _ _ h := h
  note _ _ _ _ _ h := h
  heat _ _ h := h
  list _ _ _ h := h
  reflexes _ _ h := h
  lamps _ _ _ h := h
  free _ _ h := h

theorem port_setFaultEdges (s : State) (p : Port) :
    s.setFaultEdges.port p = { s.port p with attention := { (s.port p).attention with faultEdge := true } } := by
  cases p <;> rfl

/-! ## The owner -/

theorem tellRecycleEnd_of_reflex {s : State} {c : Chan} {pu : Pulse} {x : ReflexNo} (howner : pu.owner = .reflex x)
    (howned : pu.owned = true) (faulted : Bool) :
    s.tellRecycleEnd c pu faulted = ([], s.reflexRecycleEnd x) := by
  simp only [State.tellRecycleEnd, howned, howner, if_true]

/-- The shape of a kick is the same after an entry's recycle. -/
theorem kickShape_reflexRecycleEnd (s : State) (x : ReflexNo) (o : Owner) :
    (s.reflexRecycleEnd x).kickShape o = s.kickShape o := by
  cases o with
  | order p tag => rfl
  | reflex y =>
    by_cases hy : y = x
    · subst hy
      simp only [State.kickShape, State.reflexRecycleEnd, State.reflexAt_modReflex_self]
      rfl
    · simp only [State.kickShape, State.reflexRecycleEnd, State.reflexAt_modReflex_ne _ (Ne.symm hy)]

/-- The state of an entry at its recycle expiry (R123). -/
theorem afterRecycle_eq (r : Reflex) (mode : Mode) (closed : Bool) :
    r.afterRecycle mode closed =
      if r.isArmed mode then if r.action = .flip ∧ closed = true then .spent else .armed else .disarmed := by
  unfold Reflex.afterRecycle
  cases r.isArmed mode <;> cases r.action <;> cases closed <;> rfl

theorem afterDrop_eq (r : Reflex) (mode : Mode) :
    r.afterDrop mode = if r.isArmed mode then if r.action = .flip then .spent else .armed else .disarmed := by
  unfold Reflex.afterDrop
  cases r.isArmed mode <;> cases r.action <;> rfl

/-! ## IDLE, with the front offered -/

/-- A channel whose testing front has left the queue. -/
def Channel.frontLeft (ch : Channel) (o : Owner) : Channel :=
  { ch with queue := ch.queue.filter fun q => q.owner != o, front := .channelWait }

/-- The testing front of a channel that is not listed leaves its queue (R34). -/
theorem leaveQueue_of_front {s : State} {c : Chan} {q : QueueMember} {rest : List QueueMember}
    (hphase : (s.chan c).phase = .idle) (hqueue : (s.chan c).queue = q :: rest)
    (hlist : ∀ m ∈ s.arbiter.list, m.channel ≠ c) (ex : Bool) :
    s.leaveQueue ex c q.owner = s.modChan c (·.frontLeft q.owner) := by
  have hfront : (s.chan c).isTestingFront q.owner = true := by simp [Channel.isTestingFront, hphase, hqueue]
  simp only [State.leaveQueue, hfront, if_true]
  exact depart_of_unlisted (s := s.modChan c (·.frontLeft q.owner)) (lists_of_absent hlist) ex

theorem arbiter_tellHeatWait (s : State) (o : Owner) : (s.tellHeatWait o).arbiter = s.arbiter := by cases o <;> rfl

/-- The state after the recycle of a reflex entry's pulse without a latched fault, before the front is offered. -/
def State.idled (s : State) (c : Chan) (x : ReflexNo) : State :=
  (s.recycled c .idle (s.chan c).fault).reflexRecycleEnd x

section Idled

variable {s : State} {c : Chan} {x : ReflexNo}

theorem chan_idled (s : State) (c : Chan) (x : ReflexNo) :
    (s.idled c x).chan c =
      { s.chan c with
        phase := .idle
        heat := (s.chan c).heatNow s.now
        heatAt := s.now
        pulse := none
        shortAt := s.shortStarted c } := chan_recycled_self s c .idle (s.chan c).fault

theorem chan_idled_ne {d : Chan} (h : d ≠ c) : (s.idled c x).chan d = s.chan d := chan_recycled_ne s h _ _

theorem kickShape_idled (s : State) (c : Chan) (x : ReflexNo) (o : Owner) :
    (s.idled c x).kickShape o = s.kickShape o :=
  (kickShape_reflexRecycleEnd _ x o).trans (by cases o <;> rfl)

theorem heatNow_idled (s : State) (c : Chan) (x : ReflexNo) :
    ((s.idled c x).chan c).heatNow (s.idled c x).now = (s.chan c).heatNow s.now :=
  heatNow_recycled s c .idle (s.chan c).fault

/-- The kick test of an idled channel's front, in terms of the state before (R46). -/
theorem kickFits_idled (s : State) (c : Chan) (x : ReflexNo) (o : Owner) :
    ((s.idled c x).chan c).profile.kickFits (((s.idled c x).chan c).heatNow (s.idled c x).now)
        (((s.idled c x).chan c).profile.kickLength ((s.idled c x).kickShape o).fraction) =
      (s.chan c).profile.kickFits ((s.chan c).heatNow s.now)
        ((s.chan c).profile.kickLength (s.kickShape o).fraction) := by
  rw [heatNow_idled, kickShape_idled, chan_idled]

variable {q : QueueMember} {behind : List QueueMember} (hqueue : (s.chan c).queue = q :: behind)
  (hfront : (s.chan c).front = .channelWait)
include hqueue hfront

/-- A sole reflex request that is too large is dropped (R68). -/
theorem offer_idled_drops {y : ReflexNo} (hbehind : behind = []) (howner : q.owner = .reflex y)
    (hlarge : s.arbiter.budget < (s.chan c).profile.kickDraw) (hlist : ∀ m ∈ s.arbiter.list, m.channel ≠ c) :
    let t := (s.idled c x).doAll true [.offer [c]]
    (t.chan c).queue = [] ∧ (t.chan c).phase = .idle ∧ (t.reflexAt y).report.drop = some .oversize := by
  intro t
  have hqueue' : ((s.idled c x).chan c).queue = q :: behind := by rw [chan_idled]; exact hqueue
  have hphase' : ((s.idled c x).chan c).phase = .idle := by rw [chan_idled]
  have hsize : (s.idled c x).sizeOk c q.owner = false := by
    rw [State.sizeOk, chan_idled, howner]
    exact decide_eq_false (Nat.not_le.mpr hlarge)
  let s1 := ((s.idled c x).modChan c (·.frontLeft q.owner)).dropRequest y .oversize
  have hchan : s1.chan c = ((s.idled c x).chan c).frontLeft q.owner :=
    State.chan_modChan_self (s.idled c x) c (·.frontLeft q.owner)
  have hempty : (s1.chan c).queue = [] := by simp [hchan, Channel.frontLeft, hqueue', hbehind]
  have ht : t = s1 := by
    have hdrops := doAll_offer_drops (s := s.idled c x) hphase' (by rw [chan_idled]; exact hfront) hqueue' howner hsize
      true []
    rw [← howner, leaveQueue_of_front (s := s.idled c x) hphase' hqueue' hlist] at hdrops
    have hnone := doAll_offer_of_none (s := s1) (cs := [c]) (by simpa using awaitsOffer_of_empty hempty) true []
    exact hdrops.trans (hnone.trans (doAll_nil ..))
  rw [ht]
  refine ⟨hempty, by rw [hchan]; exact hphase', ?_⟩
  simp [s1, State.dropRequest]

/-- A front that fails the kick test waits for its cooling (R46, R47). -/
theorem offer_idled_waits (hsize : s.sizeOk c q.owner = true)
    (hfits : (s.chan c).profile.kickFits ((s.chan c).heatNow s.now)
      ((s.chan c).profile.kickLength (s.kickShape q.owner).fraction) = false) :
    let t := (s.idled c x).doAll true [.offer [c]]
    (t.chan c).queue = q :: behind
      ∧ (t.chan c).front = .heatWait (s.now + (s.chan c).profile.coolingWait ((s.chan c).heatNow s.now)
        ((s.chan c).profile.kickLength (s.kickShape q.owner).fraction))
      ∧ (∀ d, d ≠ c → t.chan d = s.chan d) ∧ t.arbiter = s.arbiter := by
  intro t
  have hqueue' : ((s.idled c x).chan c).queue = q :: behind := by rw [chan_idled]; exact hqueue
  have ht : t = (s.idled c x).kickTest true c :=
    (doAll_offer_of_sizeOk (s := s.idled c x) (by rw [chan_idled]) (by rw [chan_idled]; exact hfront) hqueue'
      (by rw [State.sizeOk, chan_idled]; exact hsize) true []).trans (doAll_nil ..)
  rw [ht, kickTest_of_unfit hqueue' (by rw [kickFits_idled]; exact hfits), chan_tellHeatWait, State.chan_modChan_self,
    arbiter_tellHeatWait, heatNow_idled, kickShape_idled]
  refine ⟨hqueue', by rw [chan_idled]; rfl, fun d hd => ?_, rfl⟩
  rw [chan_tellHeatWait, State.chan_modChan_ne _ hd.symm, chan_idled_ne hd]

/-- A front with room on an ON rail and room for the heat kicks at once (R33, R46, R62). -/
theorem offer_idled_kicks (hroom : s.arbiter.units + (s.chan c).profile.kickDraw ≤ s.arbiter.limit q.owner)
    (hfits : (s.chan c).profile.kickFits ((s.chan c).heatNow s.now)
      ((s.chan c).profile.kickLength (s.kickShape q.owner).fraction) = true)
    (hrail : s.control.rail = .on) (hlist : s.arbiter.list = []) :
    let t := (s.idled c x).doAll true [.offer [c]]
    (t.chan c).phase = .kick ∧ (t.chan c).queue = behind.filter (fun x => x.owner ≠ q.owner)
      ∧ (t.chan c).pulse.map (fun pu => (pu.owner, pu.start, pu.kickLength)) =
        some (q.owner, s.now, (s.chan c).profile.kickLength (s.kickShape q.owner).fraction)
      ∧ t.arbiter.units = s.arbiter.units + (s.chan c).profile.kickDraw ∧ ∀ d, d ≠ c → t.chan d = s.chan d := by
  intro t
  have hqueue' : ((s.idled c x).chan c).queue = q :: behind := by rw [chan_idled]; exact hqueue
  have ht : t = (s.idled c x).kicked c q.owner :=
    (doAll_offer_kicks (s := s.idled c x) (by rw [chan_idled]) (by rw [chan_idled]; exact hfront) hqueue' hlist hrail
      (by rw [chan_idled]; exact hroom) (by rw [kickFits_idled]; exact hfits) []).trans (doAll_nil ..)
  rw [ht, kicked_chan_self, kicked_arbiter, hqueue']
  refine ⟨rfl, ?_, ?_, by rw [chan_idled]; rfl, fun d hd => ?_⟩
  · rw [List.filter_cons_of_neg (by simp)]
    exact List.filter_congr fun y _ => by rw [Bool.eq_iff_iff]; simp
  · simp only [Option.map_some, State.kickPulse, kickShape_idled, chan_idled]
    rfl
  · rw [kicked_chan_ne _ hd, chan_idled_ne hd]

end Idled

/-! ## FAULTED, with the queue ended -/

/-- The state after the recycle of a reflex entry's pulse with a latched fault, before its queue is ended. -/
def State.latchedOut (s : State) (c : Chan) (x : ReflexNo) (fault : FaultRecord) : State :=
  (s.recycled c .faulted (some fault)).reflexRecycleEnd x

/-- That state with the requests of the queue withdrawn and the CHANNEL_FAULT edges set. -/
def State.faultedOut (s : State) (c : Chan) (x : ReflexNo) (fault : FaultRecord) : State :=
  ((s.latchedOut c x fault).withdrawRequests c .channelFault).setFaultEdges

section FaultedOut

variable {s : State} {c : Chan} {x : ReflexNo} {fault : FaultRecord}

theorem chan_latchedOut (s : State) (c : Chan) (x : ReflexNo) (fault : FaultRecord) :
    (s.latchedOut c x fault).chan c =
      { s.chan c with
        phase := .faulted
        heat := (s.chan c).heatNow s.now
        heatAt := s.now
        pulse := none
        fault := some fault
        shortAt := s.shortStarted c } := chan_recycled_self s c .faulted (some fault)

theorem chan_faultedOut (s : State) (c : Chan) (x : ReflexNo) (fault : FaultRecord) :
    (s.faultedOut c x fault).chan c =
      { (s.latchedOut c x fault).chan c with queue := (s.chan c).queue.filter QueueMember.isOrder } := by
  rw [State.faultedOut, State.chan_setFaultEdges, chan_withdrawRequests, chan_latchedOut]

theorem chan_faultedOut_ne {d : Chan} (h : d ≠ c) : (s.faultedOut c x fault).chan d = s.chan d := by
  rw [State.faultedOut, State.chan_setFaultEdges, chan_withdrawRequests_ne _ h]
  exact chan_recycled_ne s h _ _

theorem reflexAt_latchedOut_self (s : State) (c : Chan) (x : ReflexNo) (fault : FaultRecord) :
    (s.latchedOut c x fault).reflexAt x =
      { s.reflexAt x with
        state := (s.reflexAt x).afterRecycle s.control.mode (s.switchAt (s.reflexAt x).switch).closed } := by
  rw [State.latchedOut, State.reflexRecycleEnd, State.reflexAt_modReflex_self]
  rfl

theorem reflexAt_latchedOut_ne {y : ReflexNo} (h : y ≠ x) : (s.latchedOut c x fault).reflexAt y = s.reflexAt y := by
  rw [State.latchedOut, State.reflexRecycleEnd, State.reflexAt_modReflex_ne _ h.symm]
  rfl

theorem reflexAt_faultedOut (s : State) (c : Chan) (x y : ReflexNo) (fault : FaultRecord) :
    (s.faultedOut c x fault).reflexAt y =
      if ∃ q ∈ (s.chan c).queue, q.owner = .reflex y then
        ((s.latchedOut c x fault).reflexAt y).dropped s.control.mode .channelFault
      else (s.latchedOut c x fault).reflexAt y := by
  have hread := reflexAt_withdrawRequests (s.latchedOut c x fault) c .channelFault y
  rw [chan_latchedOut] at hread
  exact hread

/-- An entry with a request in the queue, the owner of the pulse among them, is dropped (R121). -/
theorem dropped_latchedOut (s : State) (c : Chan) (x y : ReflexNo) (fault : FaultRecord) :
    ((s.latchedOut c x fault).reflexAt y).dropped s.control.mode .channelFault =
      (s.reflexAt y).dropped s.control.mode .channelFault := by
  by_cases hy : y = x
  · subst hy
    rw [reflexAt_latchedOut_self]
    rfl
  · rw [reflexAt_latchedOut_ne hy]

theorem table_faultedOut : (s.faultedOut c x fault).table = s.table :=
  (withdrawRequests_rest (s.latchedOut c x fault) c .channelFault).1

theorem port_faultedOut (p : Port) :
    (s.faultedOut c x fault).port p =
      { s.port p with attention := { (s.port p).attention with faultEdge := true } } := by
  obtain ⟨-, hports, -⟩ := withdrawRequests_rest (s.latchedOut c x fault) c .channelFault
  rw [State.faultedOut, port_setFaultEdges, State.port, hports]
  rfl

theorem time_faultedOut : (s.faultedOut c x fault).time = s.time :=
  congrArg stampOf (withdrawRequests_rest (s.latchedOut c x fault) c .channelFault).2.2.2

theorem any_isOrder (l : List QueueMember) (e : Entry) :
    ((l.filter QueueMember.isOrder).any fun q => q.owner == .order e.port e.order.tag) =
      l.any fun q => q.owner == .order e.port e.order.tag := by
  rw [List.any_filter]
  refine congrArg _ (funext fun q => ?_)
  cases hq : q.owner <;> simp [QueueMember.isOrder, hq]

theorem any_queue_faultedOut (e : Entry) :
    (((s.faultedOut c x fault).chan c).queue.any fun q => q.owner == .order e.port e.order.tag) =
      (s.chan c).queue.any fun q => q.owner == .order e.port e.order.tag := by
  rw [chan_faultedOut]
  exact any_isOrder (s.chan c).queue e

/-- The recycle expiry with a latched fault ends the orders of the queue, and nothing is offered (R29). -/
theorem recycleEnd_of_latched {pu : Pulse} {kind : FaultKind} {moment : Nat} (hphase : (s.chan c).phase = .recycle)
    (hpu : (s.chan c).pulse = some pu) (howner : pu.owner = .reflex x) (howned : pu.owned = true)
    (hlatched : pu.latched = some (kind, moment)) :
    let u := s.faultedOut c x (pu.faultRecord kind moment)
    s.recycleEnd c = (u.doAll true (u.endQueued c .channelFault)).doAll true [.offer [c]] := by
  intro u
  have hover := recycleOver_of_latched hphase hpu hlatched
  simp only [tellRecycleEnd_of_reflex howner howned, List.nil_append] at hover
  rw [recycleEnd_of_over hover]
  rfl

theorem outOfService_faultedOut (hrings : ∀ p, (s.port p).ring.slots = [])
    (horders : ∀ q ∈ (s.chan c).queue, ∀ p tag, q.owner = .order p tag →
      ∃ e, s.liveEntry p tag = some e ∧ e.order.channel = c) (x : ReflexNo) (fault : FaultRecord) :
    OutOfService (s.faultedOut c x fault) c := by
  have h := OutOfService.of_withdrawn (s := s.latchedOut c x fault) (c := c) (by rw [chan_latchedOut]; nofun) hrings
    (by rw [chan_latchedOut]; exact horders) .channelFault
  exact ⟨h.out, fun p => by rw [port_faultedOut]; exact hrings p, h.orders⟩

/-- What is left when the orders in the queue of a faulted channel have ended (R29, R96). -/
structure FaultEnded (s : State) (c : Chan) (x : ReflexNo) (fault : FaultRecord) (t : State) : Prop where
  chan : t.chan c = { (s.latchedOut c x fault).chan c with queue := [] }
  edges : ∀ p, (t.port p).attention.faultEdge = true
  frame : (s.chan c).queue = [] ∨ (∀ e ∈ s.table, ∀ n, e.stage ≠ .following n) →
    (∀ d, d ≠ c → t.chan d = s.chan d) ∧ ∀ y, t.reflexAt y = (s.faultedOut c x fault).reflexAt y
  ended : ∀ q ∈ (s.chan c).queue, ∀ p tag, q.owner = .order p tag → t.liveEntry p tag = none
  records : (∀ e ∈ s.table, ∀ n, e.stage ≠ .following n) → (s.table.map fun e => (e.port, e.order.tag)).Nodup → ∀ p,
    (t.port p).completions ++ (t.port p).held =
      (s.port p).completions ++ (s.port p).held ++
        (s.table.filter fun e => e.port == p && e.live && !e.order.quiet &&
          (s.chan c).queue.any fun q => q.owner == .order e.port e.order.tag).map fun e =>
            e.record .channelFault s.time

theorem faultEnded (hrings : ∀ p, (s.port p).ring.slots = [])
    (horders : ∀ q ∈ (s.chan c).queue, ∀ p tag, q.owner = .order p tag →
      ∃ e, s.liveEntry p tag = some e ∧ e.order.channel = c) (x : ReflexNo) (fault : FaultRecord) :
    FaultEnded s c x fault
      ((s.faultedOut c x fault).doAll true ((s.faultedOut c x fault).endQueued c .channelFault)) := by
  have hout := outOfService_faultedOut hrings horders x fault
  have hends := hout.ends (status := .channelFault) rfl true
  have hmoved : ∀ d, d ≠ c → (s.faultedOut c x fault).chan d = s.chan d := fun d hd => chan_faultedOut_ne hd
  refine ⟨?_, ?_, fun hquiet => ?_, fun q hq p tag howner => ?_, fun hfollow hkeys p => ?_⟩
  · have hrest := hends.rest
    rw [chan_faultedOut] at hrest
    rw [← hrest, ← hends.queue_nil]
  · exact kept_faultEdges.doAll true _ fun p => by rw [port_faultedOut]
  · rcases hquiet with hempty | hfollow
    · have hnil : ((s.faultedOut c x fault).chan c).queue = [] := by rw [chan_faultedOut, hempty]; rfl
      rw [endQueued_of_empty hnil, doAll_nil]
      exact ⟨hmoved, fun _ => rfl⟩
    · have hframe := (hout.endsAlone (by rw [table_faultedOut]; exact hfollow)).frame true .channelFault []
      rw [← endQueued_eq] at hframe
      obtain ⟨hchans, hreflexes, -⟩ := hframe
      exact ⟨fun d hd => (hchans d hd).trans (hmoved d hd), fun y => by rw [State.reflexAt, hreflexes]; rfl⟩
  · have hmem : q ∈ ((s.faultedOut c x fault).chan c).queue := by
      rw [chan_faultedOut]
      exact List.mem_filter.mpr ⟨hq, QueueMember.isOrder_iff.mpr ⟨p, tag, howner⟩⟩
    exact (hends.ended q hmem p tag howner).resolve_right (by rintro ⟨_, hnone⟩; cases hnone)
  · have hrecords := hout.records (by rw [table_faultedOut]; exact hfollow) (by rw [table_faultedOut]; exact hkeys)
      .channelFault true p
    rw [table_faultedOut, time_faultedOut, port_faultedOut] at hrecords
    simp only [any_queue_faultedOut] at hrecords
    exact hrecords

end FaultedOut

/-- Settles O38: without a latched fault the front of the idled channel is offered (`offer_idled_drops`,
`offer_idled_waits`, `offer_idled_kicks`); with one, the orders of the queue end (`OutOfService.ends`). -/
theorem recycleExpiryEnds : Obligations.RecycleExpiryEnds := by
  intro s c pu x expiry hp hphase hpu howner howned hat hle rest pr heat short idled
  have hexec : exec (.recycleExpiry c) s = .next (s.recycleEnd c).decideLines :=
    (event_of_powered hp (State.takeRecycle · c)).trans (by rw [takeRecycle_of_due hphase hpu hat hle])
  have hsound : pu.latched = none → s.recycleEnd c = (s.idled c x).doAll true [.offer [c]] := fun hlatched => by
    have hover := recycleOver_of_sound hphase hpu hlatched
    rw [tellRecycleEnd_of_reflex howner howned] at hover
    rw [recycleEnd_of_over hover, doAll_nil]
    rfl
  refine ⟨fun hlatched hempty => ?_, fun q behind hlatched hqueue hfront => ?_,
    fun kind moment hlatched hrings horders => ?_⟩
  · have hidled : idled = s.idled c x := by
      have hchan : (s.modChan c fun ch =>
          { ch with phase := .idle, heat := heat, heatAt := s.now, pulse := none, shortAt := short }) =
            s.recycled c .idle (s.chan c).fault := State.modChan_congr rfl
      rw [State.idled, ← hchan, State.reflexRecycleEnd]
      refine State.modReflex_congr ?_
      rw [afterRecycle_eq]
      rfl
    have hnone := doAll_offer_of_none (s := s.idled c x) (cs := [c])
      (by simpa using awaitsOffer_of_empty (by rw [chan_idled]; exact hempty)) true []
    rw [hexec, hsound hlatched, hnone, doAll_nil, hidled]
  · rw [hexec, hsound hlatched]
    intro length
    refine ⟨fun y hbehind hy hlarge hlist => ⟨_, rfl, ?_⟩, fun hsize hfits => ⟨_, rfl, ?_⟩,
      fun hroom hfits hrail hlist => ⟨_, rfl, ?_⟩⟩
    · simp only [State.chan_decideLines, State.reflexAt_decideLines]
      exact offer_idled_drops hqueue hfront hbehind hy hlarge hlist
    · simp only [State.chan_decideLines, State.decideLines_arbiter]
      exact offer_idled_waits hqueue hfront hsize hfits
    · simp only [State.chan_decideLines, State.decideLines_arbiter]
      exact offer_idled_kicks hqueue hfront hroom hfits hrail hlist
  · obtain ⟨t, ht⟩ : ∃ t, t = (s.faultedOut c x (pu.faultRecord kind moment)).doAll true
      ((s.faultedOut c x (pu.faultRecord kind moment)).endQueued c .channelFault) := ⟨_, rfl⟩
    have hover := recycleEnd_of_latched hphase hpu howner howned hlatched
    have h : FaultEnded s c x (pu.faultRecord kind moment) t :=
      ht ▸ faultEnded hrings horders x (pu.faultRecord kind moment)
    have hout : t.awaitsOffer c = false := awaitsOffer_of_not_idle (by rw [h.chan, chan_latchedOut]; nofun)
    have hend : s.recycleEnd c = t := by
      rw [ht]
      refine hover.trans ?_
      rw [← ht, doAll_offer_of_none (by simpa using hout), doAll_nil]
    rw [hexec, hend]
    refine ⟨_, rfl, ?_⟩
    simp only [State.chan_decideLines, State.reflexAt_decideLines, liveEntry_decideLines]
    refine ⟨?_, fun p => ?_, fun hquiet => ⟨?_, fun hx => ?_⟩, fun hfollow q hq y hy => ?_, h.ended,
      fun hfollow hkeys p => ?_⟩
    · rw [h.chan, chan_latchedOut, ← howner]
      rfl
    · rw [port_decideLines]
      exact h.edges p
    · exact (h.frame hquiet).1
    · rw [(h.frame hquiet).2, reflexAt_faultedOut, if_neg (by simpa using hx), reflexAt_latchedOut_self,
        afterRecycle_eq]
    · rw [(h.frame (.inr hfollow)).2, reflexAt_faultedOut, if_pos ⟨q, hq, hy⟩, dropped_latchedOut, Reflex.dropped,
        afterDrop_eq]
    · rw [port_decideLines]
      exact h.records hfollow hkeys p

end Sys2Proof.Machine

/-!
WRITE PROFILE.
-/

namespace Sys2Proof.Machine

/-! ## Reads of an answered state -/

@[simp] theorem chan_answered (s : State) (p : Port) (status : Status) (body : List Byte) (c : Chan) :
    (s.answered p status body).chan c = s.chan c := rfl
@[simp] theorem reflexAt_answered (s : State) (p : Port) (status : Status) (body : List Byte) (x : ReflexNo) :
    (s.answered p status body).reflexAt x = s.reflexAt x := rfl
@[simp] theorem liveEntry_answered (s : State) (p : Port) (status : Status) (body : List Byte) (q : Port) (tag : Byte) :
    (s.answered p status body).liveEntry q tag = s.liveEntry q tag := rfl
@[simp] theorem arbiter_answered (s : State) (p : Port) (status : Status) (body : List Byte) :
    (s.answered p status body).arbiter = s.arbiter := rfl

theorem answered_records (s : State) (p : Port) (status : Status) (body : List Byte) (q : Port) :
    ((s.answered p status body).port q).completions = (s.port q).completions
      ∧ ((s.answered p status body).port q).held = (s.port q).held := by
  rw [State.answered, port_decideLines]
  by_cases h : p = q
  · subst h; simp [PortState.decideLine]
  · simp [PortState.decideLine, h]

/-! ## The tests -/

theorem Phase.busy_eq (ph : Phase) : ph.busy = ph.hasPulse := by cases ph <;> rfl

theorem configAllowed_iff (mode : Mode) (p : Port) :
    configAllowed mode p = true ↔
      p = .p0 ∧ (mode = .idle ∨ mode = .attract) ∨ p = .p2 ∧ (mode = .idle ∨ mode = .service) := by
  cases mode <;> cases p <;> simp [configAllowed]

/-- The answer to a WRITE PROFILE of a channel from P0 or P2, as its tests in order (R18). -/
theorem answerWriteProfile_eq {p : Port} (hp : p ≠ .p1) (c : Chan) (r : ProfileRecord) (s : State) :
    answerWriteProfile p (byte c.val) r s =
      if ¬(p = .p0 ∧ (s.control.mode = .idle ∨ s.control.mode = .attract)
        ∨ p = .p2 ∧ (s.control.mode = .idle ∨ s.control.mode = .service)) then .refuse .wrongMode s
      else if (s.chan c).phase.hasPulse = true then .refuse .channelBusy s
      else if (clampProfile r).ceiling < (s.chan c).heatNow s.now then .refuse .channelWarm s
      else if (clampProfile r).canFire = false then .refuse .profileCannotFire s
      else ⟨.ok, [], s.writeProfile c (clampProfile r)⟩ := by
  simp only [answerWriteProfile, if_neg hp, channelOf_byte, Phase.busy_eq, ← configAllowed_iff, Bool.not_eq_true,
    Bool.not_eq_true']

/-! ## The record and the phase -/

/-- A channel under a new record, with its heat brought up to date under the old one (R19, R52). -/
def Channel.reprofiled (ch : Channel) (now : Nat) (pr : Profile) : Channel :=
  { ch with
    heat := ch.heatNow now
    heatAt := now
    profile := pr
    effectiveFold := pr.foldDutyInForce }

/-- A channel that was written, in a state that draws nothing. -/
def Channel.written (ch : Channel) (now : Nat) (pr : Profile) (phase : Phase) (front : Front) : Channel :=
  { ch.reprofiled now pr with phase := phase, front := front }

def State.written (s : State) (c : Chan) (pr : Profile) (phase : Phase) (front : Front) : State :=
  s.modChan c (·.written s.now pr phase front)

section Written

variable {s : State} {c : Chan} {pr : Profile}

theorem chan_written (s : State) (c : Chan) (pr : Profile) (phase : Phase) (front : Front) :
    (s.written c pr phase front).chan c = (s.chan c).written s.now pr phase front :=
  State.chan_modChan_self s c (·.written s.now pr phase front)

theorem updateHeat_reprofiled (ch : Channel) (now : Nat) (pr : Profile) :
    (ch.reprofiled now pr).updateHeat now = ch.reprofiled now pr := updateHeat_of_fresh rfl (heatAfter_le ..)

theorem heatNow_written (s : State) (c : Chan) (pr : Profile) (phase : Phase) (front : Front) :
    ((s.written c pr phase front).chan c).heatNow s.now = (s.chan c).heatNow s.now := by
  rw [chan_written]
  exact heatNow_of_fresh rfl (heatAfter_le ..)

theorem modChan_reprofiled (s : State) (c : Chan) (pr : Profile) :
    (s.updateHeat c).modChan c (fun ch => { ch with profile := pr, effectiveFold := pr.foldDutyInForce }) =
      s.modChan c (·.reprofiled s.now pr) := by
  rw [State.updateHeat, State.modChan_modChan]
  rfl

/-- A change of the written channel between two states that draw nothing keeps the heat of the write. -/
theorem setPhase_reprofiled {phase : Phase} (h : (s.chan c).phase.isLive = false) (h' : phase.isLive = false) :
    (s.modChan c (·.reprofiled s.now pr)).setPhase c phase =
      s.modChan c fun ch => { ch.reprofiled s.now pr with phase := phase } := by
  rw [setPhase_of_rest (by rw [State.chan_modChan_self]; exact h) h', State.modChan_modChan]
  exact State.modChan_congr (by rw [State.modChan_now, updateHeat_reprofiled])

theorem written_eq_of_phase {phase : Phase} (h : (s.chan c).phase = phase) :
    s.modChan c (·.reprofiled s.now pr) = s.written c pr phase (s.chan c).front := by
  subst h
  exact State.modChan_congr rfl

/-- The write on an OFFLINE channel (R20). -/
theorem writeProfile_of_offline (h : (s.chan c).phase = .offline) :
    s.writeProfile c pr = s.written c pr (if pr.enabled then .idle else .offline) (s.chan c).front := by
  simp only [State.writeProfile, h, modChan_reprofiled]
  cases pr.enabled
  · exact written_eq_of_phase h
  · exact (setPhase_reprofiled (by rw [h]; rfl) rfl).trans (State.modChan_congr rfl)

/-- The write on a FAULTED channel (R20). -/
theorem writeProfile_of_faulted (h : (s.chan c).phase = .faulted) :
    s.writeProfile c pr = s.written c pr .faulted (s.chan c).front := by
  simp only [State.writeProfile, h, modChan_reprofiled]
  exact written_eq_of_phase h

/-- The write of an enabling record on an IDLE channel (R19, R48, R61). -/
theorem writeProfile_enables (h : (s.chan c).phase = .idle) (henabled : pr.enabled = true) :
    s.writeProfile c pr = ((s.written c pr .idle .channelWait).depart true c).doAll true [.offer [c]] := by
  have hfront : (s.modChan c (·.reprofiled s.now pr)).modChan c (fun ch => { ch with front := .channelWait }) =
      s.written c pr .idle .channelWait := by
    rw [State.modChan_modChan]
    refine State.modChan_congr ?_
    rw [Channel.written, ← h]
    rfl
  simp only [State.writeProfile, h, modChan_reprofiled, henabled, if_true, State.reoffer, hfront]

/-- The write of a disabling record on an IDLE channel (R20). -/
theorem writeProfile_disables (h : (s.chan c).phase = .idle) (henabled : pr.enabled = false) :
    let w := ((s.written c pr .offline .channelWait).depart true c).withdrawRequests c .channelOffline
    s.writeProfile c pr = w.doAll true (w.endQueued c .channelOffline) := by
  have hfront : ((s.modChan c (·.reprofiled s.now pr)).setPhase c .offline).modChan c
      (fun ch => { ch with front := .channelWait }) = s.written c pr .offline .channelWait := by
    rw [setPhase_reprofiled (by rw [h]; rfl) rfl, State.modChan_modChan]
    exact State.modChan_congr rfl
  simp only [State.writeProfile, h, modChan_reprofiled, henabled, Bool.false_eq_true, if_false, State.disable, hfront]

end Written

/-! ## The list without a channel -/

/-- The state in which no member of a channel is listed (R61). -/
def State.unlisted (s : State) (c : Chan) : State :=
  { s with arbiter := { s.arbiter with list := s.arbiter.list.filter fun m => m.channel != c } }

/-- A front leaves the list with nothing granted: the rail is not ON, or no other member is listed (R61, R63). -/
theorem depart_of_quiet {s : State} {c : Chan}
    (h : s.control.rail ≠ .on ∨ s.arbiter.list.filter (fun m => m.channel ≠ c) = []) :
    s.depart true c = s.unlisted c := by
  unfold State.depart
  split
  · rcases h with hrail | hempty
    · exact examine_of_railOff (s := s.unlisted c) hrail
    · refine examine_of_nil (s := s.unlisted c) ((List.filter_congr fun m _ => ?_).trans hempty)
      rw [Bool.eq_iff_iff]; simp
  · rename_i hlists
    have hall : s.arbiter.list.filter (fun m => m.channel != c) = s.arbiter.list := by
      refine List.filter_eq_self.mpr fun m hm => bne_iff_ne.mpr fun hc => hlists ?_
      exact hc ▸ lists_of_mem hm
    rw [State.unlisted, hall]

/-- Once the front of a channel out of service has left, no member of it is listed. -/
theorem unlisted_of_depart {s : State} {c : Chan} (hout : (s.chan c).phase ≠ .idle) (ex : Bool) :
    ∀ m ∈ (s.depart ex c).arbiter.list, m.channel ≠ c := by
  intro m hm hc
  unfold State.depart at hm
  split at hm
  · have hmem := (aside_examineIf (s := s.unlisted c) (c := c) hout ex).listed m hm hc
    simp [State.unlisted, hc] at hmem
  · rename_i hlists
    exact hlists (hc ▸ lists_of_mem hm)

/-! ## The front under the new record -/

/-- The state after an enabling write on an IDLE channel, before the front is offered again. -/
def State.rewritten (s : State) (c : Chan) (pr : Profile) : State :=
  (s.written c pr .idle .channelWait).unlisted c

section Rewritten

variable {s : State} {c : Chan} {pr : Profile}

theorem chan_rewritten (s : State) (c : Chan) (pr : Profile) :
    (s.rewritten c pr).chan c = (s.chan c).written s.now pr .idle .channelWait :=
  chan_written s c pr .idle .channelWait

theorem heatNow_rewritten (s : State) (c : Chan) (pr : Profile) :
    ((s.rewritten c pr).chan c).heatNow (s.rewritten c pr).now = (s.chan c).heatNow s.now :=
  heatNow_written s c pr .idle .channelWait

theorem kickShape_rewritten (s : State) (c : Chan) (pr : Profile) (o : Owner) :
    (s.rewritten c pr).kickShape o = s.kickShape o := by cases o <;> rfl

theorem kickFits_rewritten (s : State) (c : Chan) (pr : Profile) (o : Owner) :
    ((s.rewritten c pr).chan c).profile.kickFits (((s.rewritten c pr).chan c).heatNow (s.rewritten c pr).now)
        (((s.rewritten c pr).chan c).profile.kickLength ((s.rewritten c pr).kickShape o).fraction) =
      pr.kickFits ((s.chan c).heatNow s.now) (pr.kickLength (s.kickShape o).fraction) := by
  rw [heatNow_rewritten, kickShape_rewritten, chan_rewritten]
  rfl

theorem list_rewritten (s : State) (c : Chan) (pr : Profile) :
    (s.rewritten c pr).arbiter.list = s.arbiter.list.filter fun m => m.channel ≠ c :=
  List.filter_congr fun m _ => by rw [Bool.eq_iff_iff]; simp

/-- A second update of the heat at the moment of the write changes nothing. -/
theorem updateHeat_rewritten : (s.rewritten c pr).updateHeat c = s.rewritten c pr := by
  refine State.modChan_of_eq ?_
  rw [chan_rewritten]
  exact updateHeat_of_fresh rfl (heatAfter_le ..)

variable {q : QueueMember} {behind : List QueueMember} (hqueue : (s.chan c).queue = q :: behind)
include hqueue

theorem offer_rewritten (hsmall : pr.kickDraw ≤ s.arbiter.limit q.owner) :
    (s.rewritten c pr).doAll true [.offer [c]] = (s.rewritten c pr).kickTest true c :=
  (doAll_offer_of_sizeOk (s := s.rewritten c pr) (by rw [chan_rewritten]; rfl) (by rw [chan_rewritten]; rfl)
    (by rw [chan_rewritten]; exact hqueue) (by rw [State.sizeOk, chan_rewritten]; exact decide_eq_true hsmall)
    true []).trans (doAll_nil ..)

/-- The front fails the kick test under the new record (R46, R47, R48). -/
theorem offer_rewritten_waits (hsmall : pr.kickDraw ≤ s.arbiter.limit q.owner)
    (hfits : pr.kickFits ((s.chan c).heatNow s.now) (pr.kickLength (s.kickShape q.owner).fraction) = false) :
    let t := (s.rewritten c pr).doAll true [.offer [c]]
    (t.chan c).queue = q :: behind ∧ (t.chan c).profile = pr ∧ (t.chan c).heat = (s.chan c).heatNow s.now
      ∧ (t.chan c).front = .heatWait (s.now + pr.coolingWait ((s.chan c).heatNow s.now)
        (pr.kickLength (s.kickShape q.owner).fraction))
      ∧ t.arbiter.list = s.arbiter.list.filter fun m => m.channel ≠ c := by
  intro t
  have hqueue' : ((s.rewritten c pr).chan c).queue = q :: behind := by rw [chan_rewritten]; exact hqueue
  have ht : t = (s.rewritten c pr).kickTest true c := offer_rewritten hqueue hsmall
  rw [ht, kickTest_of_unfit hqueue' (by rw [kickFits_rewritten]; exact hfits), chan_tellHeatWait,
    State.chan_modChan_self, arbiter_tellHeatWait, heatNow_rewritten, kickShape_rewritten]
  exact ⟨hqueue', by rw [chan_rewritten]; rfl, heatNow_rewritten s c pr, by rw [chan_rewritten]; rfl,
    list_rewritten s c pr⟩

/-- The front passes the kick test while the rail is not ON (R46, R60). -/
theorem offer_rewritten_joins (hsmall : pr.kickDraw ≤ s.arbiter.limit q.owner) (hrail : s.control.rail ≠ .on)
    (hfits : pr.kickFits ((s.chan c).heatNow s.now) (pr.kickLength (s.kickShape q.owner).fraction) = true) :
    let t := (s.rewritten c pr).doAll true [.offer [c]]
    (t.chan c).queue = q :: behind ∧ (t.chan c).profile = pr ∧ (t.chan c).heat = (s.chan c).heatNow s.now
      ∧ (t.chan c).front = .admission
      ∧ t.arbiter.list = insertMember ⟨c, q.owner, q.priority, pr.kickDraw, s.arbiter.joins⟩
        (s.arbiter.list.filter fun m => m.channel ≠ c) := by
  intro t
  have hqueue' : ((s.rewritten c pr).chan c).queue = q :: behind := by rw [chan_rewritten]; exact hqueue
  have ht : t = ((s.rewritten c pr).joined c q).tellRailWait q.owner := by
    refine (offer_rewritten hqueue hsmall).trans ?_
    rw [kickTest_of_fits hqueue' (by rw [kickFits_rewritten]; exact hfits), updateHeat_rewritten,
      join_of_railOff (s := s.rewritten c pr) hrail]
  have harbiter : t.arbiter = ((s.rewritten c pr).joined c q).arbiter := by rw [ht]; cases q.owner <;> rfl
  rw [harbiter, ht, chan_tellRailWait, chan_joined, chan_rewritten]
  refine ⟨hqueue, rfl, rfl, rfl, ?_⟩
  show insertMember ((s.rewritten c pr).memberOf c q) (s.rewritten c pr).arbiter.list = _
  rw [State.memberOf, list_rewritten, chan_rewritten]
  rfl

/-- The front has room on an ON rail and room for the heat (R33, R46, R62). -/
theorem offer_rewritten_kicks (hroom : s.arbiter.units + pr.kickDraw ≤ s.arbiter.limit q.owner)
    (hrail : s.control.rail = .on) (hothers : s.arbiter.list.filter (fun m => m.channel ≠ c) = [])
    (hfits : pr.kickFits ((s.chan c).heatNow s.now) (pr.kickLength (s.kickShape q.owner).fraction) = true) :
    let t := (s.rewritten c pr).doAll true [.offer [c]]
    (t.chan c).phase = .kick ∧ (t.chan c).profile = pr
      ∧ (t.chan c).pulse.map (fun pu => (pu.owner, pu.start, pu.kickLength)) =
        some (q.owner, s.now, pr.kickLength (s.kickShape q.owner).fraction)
      ∧ t.arbiter.units = s.arbiter.units + pr.kickDraw := by
  intro t
  have ht : t = (s.rewritten c pr).kicked c q.owner :=
    (doAll_offer_kicks (s := s.rewritten c pr) (by rw [chan_rewritten]; rfl) (by rw [chan_rewritten]; rfl)
      (by rw [chan_rewritten]; exact hqueue) (by rw [list_rewritten]; exact hothers) hrail
      (by rw [chan_rewritten]; exact hroom) (by rw [kickFits_rewritten]; exact hfits) []).trans (doAll_nil ..)
  rw [ht, kicked_chan_self, kicked_arbiter]
  refine ⟨rfl, by rw [chan_rewritten]; rfl, ?_, by rw [chan_rewritten]; rfl⟩
  simp only [Option.map_some, State.kickPulse, kickShape_rewritten, chan_rewritten]
  rfl

end Rewritten

/-! ## A disabled channel -/

/-- The state after a disabling write on an IDLE channel, with its front out of the admission list. -/
def State.retired (s : State) (c : Chan) (pr : Profile) : State := (s.written c pr .offline .channelWait).depart true c

section Retired

variable {s : State} {c : Chan} {pr : Profile}

theorem aside_retired (s : State) (c : Chan) (pr : Profile) :
    (s.retired c pr).Aside c (s.written c pr .offline .channelWait) :=
  aside_depart (by rw [chan_written]; nofun) true c

theorem chan_retired (s : State) (c : Chan) (pr : Profile) :
    (s.retired c pr).chan c = (s.chan c).written s.now pr .offline .channelWait :=
  (aside_retired s c pr).chan.trans (chan_written ..)

theorem port_retired (s : State) (c : Chan) (pr : Profile) (p : Port) : (s.retired c pr).port p = s.port p :=
  congrArg (PerPort.get · p) (aside_retired s c pr).ports

theorem liveEntry_retired {p : Port} {tag : Byte} {e : Entry} (h : s.liveEntry p tag = some e) :
    ∃ e', (s.retired c pr).liveEntry p tag = some e' ∧ e'.order = e.order := by
  have horders := (aside_retired s c pr).orders p tag
  have hwritten : (s.written c pr .offline .channelWait).liveEntry p tag = s.liveEntry p tag := rfl
  rw [hwritten, h, Option.map_some] at horders
  obtain ⟨e', he', horder⟩ := Option.map_eq_some_iff.mp horders
  exact ⟨e', he', horder⟩

theorem outOfService_retired (hrings : ∀ p, (s.port p).ring.slots = [])
    (horders : ∀ q ∈ (s.chan c).queue, ∀ p tag, q.owner = .order p tag →
      ∃ e, s.liveEntry p tag = some e ∧ e.order.channel = c) (pr : Profile) :
    OutOfService ((s.retired c pr).withdrawRequests c .channelOffline) c := by
  refine .of_withdrawn (by rw [chan_retired]; nofun) (fun p => by rw [port_retired]; exact hrings p)
    (fun q hq p tag howner => ?_) .channelOffline
  rw [chan_retired] at hq
  obtain ⟨e, hlive, hc⟩ := horders q hq p tag howner
  obtain ⟨e', hlive', horder⟩ := liveEntry_retired (c := c) (pr := pr) hlive
  exact ⟨e', hlive', by rw [horder]; exact hc⟩

theorem any_queue_retired (e : Entry) :
    ((((s.retired c pr).withdrawRequests c .channelOffline).chan c).queue.any fun q =>
      q.owner == .order e.port e.order.tag) =
      (s.chan c).queue.any fun q => q.owner == .order e.port e.order.tag := by
  rw [chan_withdrawRequests, chan_retired]
  exact any_isOrder (s.chan c).queue e

end Retired

/-- What is left when the queue of a disabled channel has been emptied (R20, R96). -/
structure Disabled (s : State) (c : Chan) (pr : Profile) (t : State) : Prop where
  phase : (t.chan c).phase = .offline
  queue : (t.chan c).queue = []
  profile : (t.chan c).profile = pr
  unlisted : ∀ m ∈ t.arbiter.list, m.channel ≠ c
  dropped : (∀ e ∈ s.table, ∀ n, e.stage ≠ .following n) → ∀ q ∈ (s.chan c).queue, ∀ x, q.owner = .reflex x →
    (t.reflexAt x).report.drop = some .channelOffline ∧ (t.reflexAt x).state ≠ .waiting
  ended : ∀ q ∈ (s.chan c).queue, ∀ p tag, q.owner = .order p tag → t.liveEntry p tag = none
  records : s.control.rail ≠ .on ∨ s.arbiter.list.filter (fun m => m.channel ≠ c) = [] →
    (∀ e ∈ s.table, ∀ n, e.stage ≠ .following n) → (s.table.map fun e => (e.port, e.order.tag)).Nodup → ∀ p,
    (t.port p).completions ++ (t.port p).held =
      (s.port p).completions ++ (s.port p).held ++
        (s.table.filter fun e => e.port == p && e.live && !e.order.quiet &&
          (s.chan c).queue.any fun q => q.owner == .order e.port e.order.tag).map fun e =>
            e.record .channelOffline s.time

theorem Reflex.dropped_not_waiting (r : Reflex) (mode : Mode) (cause : DropCause) :
    (r.dropped mode cause).state ≠ .waiting := by
  show r.afterDrop mode ≠ _
  rw [afterDrop_eq]
  split
  · split <;> nofun
  · nofun

/-- A disabling write on an IDLE channel (R20). -/
theorem disabled_of_write {s : State} {c : Chan} (hrings : ∀ p, (s.port p).ring.slots = [])
    (horders : ∀ q ∈ (s.chan c).queue, ∀ p tag, q.owner = .order p tag →
      ∃ e, s.liveEntry p tag = some e ∧ e.order.channel = c) (pr : Profile) :
    let w := (s.retired c pr).withdrawRequests c .channelOffline
    Disabled s c pr (w.doAll true (w.endQueued c .channelOffline)) := by
  intro w
  have hout : OutOfService w c := outOfService_retired hrings horders pr
  have hends := hout.ends (status := .channelOffline) rfl true
  have hchan : w.chan c = { (s.chan c).written s.now pr .offline .channelWait with
      queue := (s.chan c).queue.filter QueueMember.isOrder } := by
    rw [chan_withdrawRequests, chan_retired]
    rfl
  obtain ⟨htable, hports, harbiter, hnow⟩ := withdrawRequests_rest (s.retired c pr) c .channelOffline
  have hfollow' : (∀ e ∈ s.table, ∀ n, e.stage ≠ .following n) → ∀ e ∈ w.table, ∀ n, e.stage ≠ .following n :=
    fun hfollow => by
      rw [htable]
      exact (aside_retired s c pr).follow hfollow
  have hfinal : (w.doAll true (w.endQueued c .channelOffline)).chan c = { w.chan c with queue := [] } := by
    rw [← hends.rest, ← hends.queue_nil]
  refine ⟨by rw [hfinal, hchan]; rfl, hends.queue_nil, by rw [hfinal, hchan]; rfl, fun m hm hc => ?_,
    fun hfollow q hq x hx => ?_, fun q hq p tag howner => ?_, fun hquiet hfollow hkeys p => ?_⟩
  · have hlisted := hends.listed m hm hc
    rw [harbiter] at hlisted
    exact unlisted_of_depart (by rw [chan_written]; nofun) true m hlisted hc
  · have hframe := (hout.endsAlone (hfollow' hfollow)).frame true .channelOffline []
    rw [← endQueued_eq] at hframe
    obtain ⟨-, hreflexes, -⟩ := hframe
    have hread := reflexAt_withdrawRequests (s.retired c pr) c .channelOffline x
    rw [chan_retired, if_pos ⟨q, hq, hx⟩] at hread
    rw [State.reflexAt, hreflexes]
    show (w.reflexAt x).report.drop = _ ∧ (w.reflexAt x).state ≠ _
    rw [hread]
    exact ⟨rfl, Reflex.dropped_not_waiting _ _ _⟩
  · have hmem : q ∈ (w.chan c).queue := by
      rw [hchan]
      exact List.mem_filter.mpr ⟨hq, QueueMember.isOrder_iff.mpr ⟨p, tag, howner⟩⟩
    exact (hends.ended q hmem p tag howner).resolve_right (by rintro ⟨_, hnone⟩; cases hnone)
  · have hretired : s.retired c pr = (s.written c pr .offline .channelWait).unlisted c := depart_of_quiet hquiet
    have htable' : w.table = s.table := by rw [htable, hretired]; rfl
    have htime : w.time = s.time := congrArg stampOf (hnow.trans (by rw [hretired]; rfl))
    have hport : w.port p = s.port p := (congrArg (PerPort.get · p) hports).trans (port_retired s c pr p)
    have hrecords := hout.records (hfollow' hfollow) (by rw [htable']; exact hkeys) .channelOffline true p
    rw [htable', htime, hport] at hrecords
    simp only [w, any_queue_retired] at hrecords
    exact hrecords

/-! ## The settling theorem -/

/-- A field that is clamped into its range is in it, and is left as carried when it was (R17). -/
theorem clampProfile_clamps (r : ProfileRecord) : (clampProfile r).inRange
    ∧ (1 ≤ r.kickTime.toNat → r.kickTime.toNat ≤ 1000 → (clampProfile r).kickTime = r.kickTime.toNat)
    ∧ (1 ≤ r.kickDraw.toNat → r.kickDraw.toNat ≤ 64 → (clampProfile r).kickDraw = r.kickDraw.toNat)
    ∧ (r.holdDuty.toNat ≤ 16 → (clampProfile r).holdDuty = r.holdDuty.toNat)
    ∧ (r.foldDuty.toNat ≤ 16 → (clampProfile r).foldDuty = r.foldDuty.toNat)
    ∧ (1 ≤ r.heatFactor.toNat → r.heatFactor.toNat ≤ 16 → (clampProfile r).heatFactor = r.heatFactor.toNat)
    ∧ (1 ≤ r.cooling.toNat → (clampProfile r).cooling = r.cooling.toNat)
    ∧ (1 ≤ r.ceiling.toNat → (clampProfile r).ceiling = r.ceiling.toNat)
    ∧ (r.recycle.toNat ≤ 10000 → (clampProfile r).recycle = r.recycle.toNat)
    ∧ (1 ≤ r.maxOn.toNat → r.maxOn.toNat ≤ 6000000 → (clampProfile r).maxOn = r.maxOn.toNat)
    ∧ (clampProfile r).senseDelay = r.senseDelay.toNat := by
  refine ⟨clampProfile_inRange r, fun h h' => ?_, fun h h' => ?_, fun h => ?_, fun h => ?_, fun h h' => ?_,
    fun h => ?_, fun h => ?_, fun h => ?_, fun h h' => ?_, rfl⟩ <;> simp only [clampProfile] <;> omega

/-- The writes of an accepted record that offer nothing and end nothing (R19, R20). -/
theorem writeProfile_quiet {s : State} {c : Chan} {pr : Profile} (hphase : (s.chan c).phase = .idle)
    (hqueue : (s.chan c).queue = []) (hothers : s.arbiter.list = s.arbiter.list.filter fun m => m.channel ≠ c) :
    s.writeProfile c pr = s.written c pr (if pr.enabled then .idle else .offline) .channelWait := by
  have hunlisted : s.arbiter.lists c = false := lists_of_absent fun m hm => by
    rw [hothers] at hm
    simpa using (List.mem_filter.mp hm).2
  have hdepart : ∀ phase, (s.written c pr phase .channelWait).depart true c = s.written c pr phase .channelWait :=
    fun phase => depart_of_unlisted (s := s.written c pr phase .channelWait) hunlisted true
  have hempty : ∀ phase, ((s.written c pr phase .channelWait).chan c).queue = [] := fun phase => by
    rw [chan_written]
    exact hqueue
  cases henabled : pr.enabled
  · rw [writeProfile_disables hphase henabled, hdepart, withdrawRequests_of_empty (hempty _),
      endQueued_of_empty (hempty _), doAll_nil]
    rfl
  · rw [writeProfile_enables hphase henabled, hdepart,
      doAll_offer_of_none (by simpa using awaitsOffer_of_empty (hempty .idle)), doAll_nil]
    rfl

/-- The front of an IDLE channel under an enabling record (R19, R48). -/
theorem writeProfile_reoffers {s : State} {c : Chan} {pr : Profile} (hphase : (s.chan c).phase = .idle)
    (henabled : pr.enabled = true)
    (hquiet : s.control.rail ≠ .on ∨ s.arbiter.list.filter (fun m => m.channel ≠ c) = []) :
    s.writeProfile c pr = (s.rewritten c pr).doAll true [.offer [c]] := by
  rw [writeProfile_enables hphase henabled, depart_of_quiet (s := s.written c pr .idle .channelWait) hquiet]
  rfl

/-- Settles O45: the tests are `answerWriteProfile_eq`; an accepted record is written by the lemmas for its channel's
state, the front of an IDLE one is offered again (`offer_rewritten_waits`, `offer_rewritten_joins`,
`offer_rewritten_kicks`) or its queue is emptied (`disabled_of_write`). -/
theorem writeProfileTests : Obligations.WriteProfileTests := by
  refine ⟨fun s p b r hs => ?_, clampProfile_clamps⟩
  intro refused mode
  have hexec := exec_row_of_ready hs (.writeProfile b r)
  simp only [Command.answer] at hexec
  refine ⟨fun hp => ?_, fun hp hb => ?_, fun c hp hb => ?_⟩
  · rw [answerWriteProfile, if_pos hp] at hexec
    exact hexec
  · rw [answerWriteProfile, if_neg hp, channelOf_none hb] at hexec
    exact hexec
  · subst hb
    rw [answerWriteProfile_eq hp] at hexec
    split
    · rename_i hmode
      rw [if_pos hmode] at hexec
      exact hexec
    rename_i hmode
    rw [if_neg hmode] at hexec
    split
    · rename_i hbusy
      rw [if_pos hbusy] at hexec
      exact hexec
    rename_i hbusy
    rw [if_neg hbusy] at hexec
    split
    · rename_i hwarm
      rw [if_pos hwarm] at hexec
      exact hexec
    rename_i hwarm
    rw [if_neg hwarm] at hexec
    split
    · rename_i hfire
      rw [if_pos hfire] at hexec
      exact hexec
    rename_i hfire
    rw [if_neg hfire] at hexec
    intro pr heat written others answered
    have haccept : exec (.writeProfile p (byte c.val) r) s = .next ((s.writeProfile c pr).answered p .ok []) := hexec
    have hwritten : ∀ phase front, written phase front = s.written c pr phase front :=
      fun _ _ => State.modChan_congr rfl
    have hanswered : ∀ phase front, s.writeProfile c pr = s.written c pr phase front → answered (written phase front) :=
      fun phase front h => by
        rw [hwritten, ← h]
        exact haccept
    refine ⟨fun h => ?_, fun h => ?_, fun hidle hqueue hothers => ?_, fun q behind hidle hqueue henabled => ?_,
      fun hidle hdisabled hrings horders => ?_⟩
    · exact hanswered _ _ (writeProfile_of_offline h)
    · exact hanswered _ _ (writeProfile_of_faulted h)
    · exact hanswered _ _ (writeProfile_quiet hidle hqueue hothers)
    · intro length small
      have hoffered := writeProfile_reoffers (s := s) (c := c) (pr := pr) hidle henabled
      refine ⟨fun hsmall hquiet hfits => ⟨_, haccept, ?_⟩, fun hsmall hrail hfits => ⟨_, haccept, ?_⟩,
        fun hroom hrail hothers hfits => ⟨_, haccept, ?_⟩⟩
      · rw [hoffered hquiet]
        simp only [chan_answered, arbiter_answered]
        exact offer_rewritten_waits hqueue hsmall hfits
      · rw [hoffered (.inl hrail)]
        simp only [chan_answered, arbiter_answered]
        exact offer_rewritten_joins hqueue hsmall hrail hfits
      · rw [hoffered (.inr hothers)]
        simp only [chan_answered, arbiter_answered]
        exact offer_rewritten_kicks hqueue hroom hrail hothers hfits
    · have h : Disabled s c pr (s.writeProfile c pr) := by
        rw [writeProfile_disables hidle hdisabled]
        exact disabled_of_write hrings horders pr
      refine ⟨_, haccept, ?_⟩
      simp only [chan_answered, arbiter_answered, reflexAt_answered, liveEntry_answered]
      refine ⟨h.phase, h.queue, h.profile, h.unlisted, h.dropped, h.ended, fun hquiet hfollow hkeys q => ?_⟩
      rw [(answered_records _ p .ok [] q).1, (answered_records _ p .ok [] q).2]
      exact h.records hquiet hfollow hkeys q

end Sys2Proof.Machine

/-!
The show port.
-/

namespace Sys2Proof.Machine

/-! ## What a command keeps beside the links -/

/-- A property that survives the writes of events, and every write of a port's record that leaves its link. -/
structure KeptBesideLinks (P : State → Prop) : Prop extends KeptCore P where
  port : ∀ s p f, (∀ ps : PortState, (f ps).link = ps.link) → P s → P (s.modPort p f)

namespace KeptBesideLinks

open KeptCore

variable {P : State → Prop} (K : KeptBesideLinks P)
include K

theorem moveHeld (p : Port) (n : Nat) : ∀ s, P s → P (Machine.moveHeld p n s) := by
  induction n with
  | zero => exact fun _ hs => hs
  | succ n ih =>
    intro s hs
    rw [Machine.moveHeld]
    split
    · exact hs
    · split
      · exact ih _ (K.doAll true _ (K.freeEntry _ _ (K.port s p _ (fun _ => by rfl) hs)))
      · exact hs

theorem postOrder {s : State} (p : Port) (r : OrderRecord) (hs : P s) : P (answerPostOrder p r s).state := by
  unfold answerPostOrder
  split
  · split
    · exact hs
    · exact K.doAll true _ (K.port s p _ (fun _ => by rfl) hs)
  · exact hs

theorem cancelRunning {s : State} (e : Entry) (hs : P s) : P (s.cancelRunning e).state := by
  have hend : ∀ {ph : Phase}, (s.chan e.order.channel).phase = ph → ph.hasPulse = true →
      P (s.endPulse e.order.channel .release none) := fun hphase hpulse =>
    K.endPulse _ _ _ (by rw [hphase]; exact hpulse) hs
  unfold State.cancelRunning
  dsimp only
  split
  · exact hs
  · split
    · exact K.modPulse _ _ (fun _ => by rfl) hs
    · rename_i hphase
      exact hend hphase rfl
    · rename_i hphase
      exact hend hphase rfl
    · exact hs
  · exact K.modEntry _ _ _ (fun _ => rfl) hs

theorem cancelOrder {s : State} (p : Port) (tag : Byte) (hs : P s) : P (answerCancelOrder p tag s).state := by
  unfold answerCancelOrder
  split
  · dsimp only
    exact K.port s p _ (fun _ => by rfl) hs
  · split
    · exact hs
    · split
      · exact K.cancelRunning _ hs
      · exact K.doAll true _ hs
      · exact K.doAll true _ hs
      · exact K.doAll true _ hs
      · exact hs

theorem writeLamps {s : State} (p : Port) (w : List CellWrite) (hs : P s) : P (answerWriteLamps p w s).state := by
  have hcells : ∀ l : List (LampNo × Option Light), ∀ s, P s → P (applyCells p l s) := fun l => by
    induction l with
    | nil => exact fun _ hs => hs
    | cons w l ih => exact fun s hs => ih _ (K.modLamp _ _ hs)
  unfold answerWriteLamps
  split
  · exact hs
  · split
    · exact hs
    · split
      · exact hs
      · exact K.redriveAll _ (hcells _ s hs)

/-- A command of the show port that is not a port reset (R18, R30, R55, R112, R118, R128, R140, R153, R172). -/
theorem answer_p1 {s : State} {c : Command} (hc : c ≠ .portReset) (hs : P s) : P (c.answer .p1 s).state := by
  have hport : ∀ f : PortState → PortState, (∀ ps, (f ps).link = ps.link) → P (s.modPort .p1 f) := fun f hf =>
    K.port s .p1 f hf hs
  cases c with
  | portReset => exact absurd rfl hc
  | tableReset => exact hs
  | readClock => exact hs
  | setAlarmTime time =>
    dsimp only [Command.answer, answerSetAlarmTime]
    exact hport _ fun _ => rfl
  | disarm =>
    dsimp only [Command.answer, answerDisarm]
    exact hport _ fun _ => rfl
  | postOrder o => exact K.postOrder .p1 o hs
  | cancelOrder tag => exact K.cancelOrder .p1 tag hs
  | readCompletions => exact K.moveHeld .p1 _ _ (hport _ fun _ => rfl)
  | readRing => exact hs
  | writeProfile c r => exact hs
  | readProfile c =>
    simp only [Command.answer, answerReadProfile]
    split <;> exact hs
  | readChannel c =>
    simp only [Command.answer, answerReadChannel]
    split
    · exact hs
    · exact K.heat s _ hs
  | clearFault c => exact hs
  | writeRail b v => exact hs
  | readRail => exact hs
  | setMode m =>
    have hrefused : (answerSetMode .p1 m s).state = s := by
      unfold answerSetMode
      cases modeOf m with
      | none => rfl
      | some target => cases target <;> rfl
    exact (congrArg P hrefused).mpr hs
  | clearAlarm => exact hs
  | readAlarm => exact hs
  | writeSwitchConfig n h a b => exact hs
  | readSwitches => exact hs
  | subscribe v =>
    dsimp only [Command.answer, answerSubscribe]
    exact hport _ fun _ => rfl
  | readSwitchEvents =>
    dsimp only [Command.answer, answerReadSwitchEvents]
    exact hport _ fun _ => rfl
  | writeReflex x r => exact hs
  | readReflex x =>
    simp only [Command.answer, answerReadReflex]
    split <;> exact hs
  | writeLamps w => exact K.writeLamps .p1 w hs
  | writeLampConfig f t l => exact hs
  | readLamps l =>
    simp only [Command.answer, answerReadLamps]
    split <;> exact hs
  | writeAttention v t m =>
    dsimp only [Command.answer, answerWriteAttention]
    exact hport _ fun _ => rfl
  | takeEvent =>
    refine hport _ fun ps => ?_
    unfold PortState.clearEdge
    split <;> rfl

end KeptBesideLinks

/-! ## The settings, and the link of the show port -/

/-- What the commands of the show port keep: the settings, and a link that waits for no table reset. -/
structure State.Shown (t s : State) : Prop where
  same : t.SameSettings s
  waits : (t.link .p1).awaiting ≠ some .table

theorem kept_shown (s : State) : KeptBesideLinks (State.Shown · s) where
  ports t v hv h :=
    ⟨(kept_sameSettings s).ports t v hv h.same, by
      obtain ⟨-, hlink, -⟩ := hv .p1
      show (v.get .p1).link.awaiting ≠ _
      rw [hlink]
      exact h.waits⟩
  table t v hv h := ⟨(kept_sameSettings s).table t v hv h.same, h.waits⟩
  coil t c ph g hg hc hl h := ⟨(kept_sameSettings s).coil t c ph g hg hc hl h.same, h.waits⟩
  note t c g hg hc h := ⟨(kept_sameSettings s).note t c g hg hc h.same, h.waits⟩
  heat t c h := ⟨(kept_sameSettings s).heat t c h.same, h.waits⟩
  list t l j h := ⟨(kept_sameSettings s).list t l j h.same, h.waits⟩
  reflexes t v h := ⟨(kept_sameSettings s).reflexes t v h.same, h.waits⟩
  lamps t v hv h := ⟨(kept_sameSettings s).lamps t v hv h.same, h.waits⟩
  free t v h := ⟨(kept_sameSettings s).free t v h.same, h.waits⟩
  port t p f hf h :=
    ⟨{ h.same with }, by
      by_cases hp : p = .p1
      · subst hp
        rw [State.link, State.port_modPort_self, hf]
        exact h.waits
      · rw [State.link, State.port_modPort_ne _ hp]
        exact h.waits⟩

namespace State.Shown

variable {s t : State}

/-- A write of the show port's record after which its link waits for no table reset. -/
theorem modPort (h : t.Shown s) (f : PortState → PortState) (hf : (f (t.port .p1)).link.awaiting ≠ some .table) :
    (t.modPort .p1 f).Shown s :=
  ⟨{ h.same with }, by rw [State.link, State.port_modPort_self]; exact hf⟩

theorem answer (h : t.Shown s) (c : Command) : (c.answer .p1 t).state.Shown s := by
  by_cases hc : c = .portReset
  · subst hc
    exact h.modPort (fun ps => { ps with link := { ps.link with awaiting := some .port } }) nofun
  · exact (kept_shown s).answer_p1 hc h

theorem sendReply {a : Answer} (h : a.state.Shown s) : (Machine.sendReply .p1 a).Shown s := h.modPort _ h.waits

theorem takeFrame (h : t.Shown s) (f : Frame) : (t.takeFrame .p1 f).Shown s := by
  refine sendReply ?_
  unfold frameAnswer
  split
  · exact h
  · exact h.answer _

theorem awaiting_portReset {ps : PortState} : ps.portReset.link.awaiting ≠ some .table := nofun

/-- A port reset of the show port (R171). -/
theorem portReset (h : t.Shown s) : (t.portReset .p1).Shown s := by
  have K := (kept_shown s).toKeptCore
  have hpulse : ∀ (t : State) (c : Chan), t.Shown s → (State.portResetPulse .p1 t c).Shown s := fun t c ht => by
    unfold State.portResetPulse
    split
    · split
      · rename_i hlive
        exact K.abortPulse c (KeptCore.hasPulse_of_isLive hlive) ht
      · exact K.modPulse c _ (fun _ => rfl) ht
    · exact ht
  have hpulses := KeptCore.foldl (P := (State.Shown · s)) (f := State.portResetPulse .p1) hpulse (allFin 24) t h
  have hentries := KeptCore.foldl (P := (State.Shown · s)) (f := State.portResetEntry)
    (fun _ e ht => K.leaveQueue false _ _ ht) (((allFin 24).foldl (State.portResetPulse .p1) t).entriesOf .p1) _ hpulses
  unfold State.portReset
  dsimp only
  exact K.doAll true _ (K.examine (modPort (K.tableFilter _ hentries) PortState.portReset awaiting_portReset))

theorem takeReplyEnd (h : t.Shown s) : (t.takeReplyEnd .p1).Shown s := by
  have hidle : (t.modLink .p1 fun l => { l with sending := none }).Shown s := h.modPort _ h.waits
  unfold State.takeReplyEnd
  split
  · unfold State.afterReply
    dsimp only
    split
    · exact hidle.portReset
    · rename_i hawaits
      exact absurd hawaits h.waits
    · split
      · exact takeFrame (modPort hidle _ hidle.waits) _
      · exact hidle
  · exact h

end State.Shown

/-- Settles O60: the replies owed and the command keep `State.Shown`. -/
theorem showPortKeepsProfilesRailSwitchesAndMode : Obligations.ShowPortKeepsProfilesRailSwitchesAndMode := by
  intro c s t hwaits hexec
  have hshown : t.Shown s := by
    rw [exec_row] at hexec
    have hstart : s.Shown s := ⟨.refl s, hwaits⟩
    unfold event at hexec
    split at hexec
    · cases hexec
      exact (kept_shown s).decideLines (State.Shown.sendReply ((hstart.takeReplyEnd.takeReplyEnd).answer c))
    · cases hexec
      exact hstart
  have h := hshown.same
  exact ⟨h.profile, h.budget, h.reserve, h.switches, h.control⟩

end Sys2Proof.Machine

/-!
Heat brought up to date within a state, and the answer of a WRITE PROFILE as one refusal or one write.
-/

namespace Sys2Proof.Machine

/-! ## Elapsed time in two parts -/

/-- The rate is constant between the updates, so a clamp met in the first part is met for good (R43). -/
theorem heatAfter_heatAfter {heat : Nat} (h : heat ≤ Config.heatMax) (n : Int) (t1 t2 : Nat) :
    heatAfter (heatAfter heat n t1) n t2 = heatAfter heat n (t1 + t2) := by
  have hsplit : n * ((t1 + t2 : Nat) : Int) = n * t1 + n * t2 := by rw [Nat.cast_add, mul_add]
  rcases le_total 0 n with hn | hn
  · have h1 : 0 ≤ n * t1 := mul_nonneg hn (Int.natCast_nonneg t1)
    have h2 : 0 ≤ n * t2 := mul_nonneg hn (Int.natCast_nonneg t2)
    simp only [heatAfter, hsplit]
    omega
  · have h1 : n * t1 ≤ 0 := Int.mul_nonpos_of_nonpos_of_nonneg hn (Int.natCast_nonneg t1)
    have h2 : n * t2 ≤ 0 := Int.mul_nonpos_of_nonpos_of_nonneg hn (Int.natCast_nonneg t2)
    simp only [heatAfter, hsplit]
    omega

theorem heatAfter_rate_zero {heat : Nat} (h : heat ≤ Config.heatMax) (t : Nat) : heatAfter heat 0 t = heat := by
  simp [heatAfter, h]

/-- The lower clamp (R42). -/
theorem heatAfter_from_zero {n : Int} (hn : n ≤ 0) (t : Nat) : heatAfter 0 n t = 0 :=
  Nat.le_zero.mp (heatAfter_le_self hn t)

/-- The upper clamp (R42). -/
theorem heatAfter_from_max {n : Int} (hn : 0 ≤ n) (t : Nat) :
    heatAfter Config.heatMax n t = Config.heatMax := by
  have h : 0 ≤ n * t := mul_nonneg hn (Int.natCast_nonneg t)
  exact min_eq_left (by omega)

/-- An update leaves the heat of every later moment as it was (R43). -/
theorem heatNow_updateHeat {ch : Channel} {now later : Nat} (hheat : ch.heat ≤ Config.heatMax)
    (hat : ch.heatAt ≤ now) (hlater : now ≤ later) :
    (ch.updateHeat now).heatNow later = ch.heatNow later := by
  have helapsed : now - ch.heatAt + (later - now) = later - ch.heatAt := by omega
  calc (ch.updateHeat now).heatNow later
      = heatAfter (heatAfter ch.heat ch.netRate (now - ch.heatAt)) ch.netRate (later - now) := rfl
    _ = ch.heatNow later := by rw [heatAfter_heatAfter hheat, helapsed, Channel.heatNow]

/-! ## The answer of a WRITE PROFILE -/

/-- What a WRITE PROFILE of a channel can answer: a refusal that leaves the state as it was, or the write of a channel
without a pulse (R18). -/
theorem answerWriteProfile_cases (p : Port) (c : Chan) (r : ProfileRecord) (s : State) :
    (∃ status, status ≠ .ok ∧ answerWriteProfile p (byte c.val) r s = .refuse status s)
      ∨ (s.chan c).phase.hasPulse = false
        ∧ answerWriteProfile p (byte c.val) r s = ⟨.ok, [], s.writeProfile c (clampProfile r)⟩ := by
  by_cases hp : p = .p1
  · exact .inl ⟨.notPermitted, nofun, if_pos hp⟩
  · rw [answerWriteProfile_eq hp]
    split
    · exact .inl ⟨.wrongMode, nofun, rfl⟩
    split
    · exact .inl ⟨.channelBusy, nofun, rfl⟩
    split
    · exact .inl ⟨.channelWarm, nofun, rfl⟩
    split
    · exact .inl ⟨.profileCannotFire, nofun, rfl⟩
    · rename_i hbusy _ _
      exact .inr ⟨Bool.eq_false_iff.mpr hbusy, rfl⟩

/-- Settles O20: `heatAfter_heatAfter` for the split, the two clamps, and the two commands: a READ CHANNEL is an update
(`heatNow_updateHeat`), a refused WRITE PROFILE leaves every channel as it was. -/
theorem updatesDoNotChangeLaterHeat : Obligations.UpdatesDoNotChangeLaterHeat := by
  refine ⟨fun heat t1 t2 n h => heatAfter_heatAfter h n t1 t2, fun heat t h => heatAfter_rate_zero h t,
    fun n t hn => heatAfter_from_zero hn.le t, fun n t hn => heatAfter_from_max hn.le t, ?_⟩
  intro s t p c r later hs hrange hat hlater
  refine ⟨fun hread => ?_, fun hrefused hwrite => ?_⟩
  · obtain ⟨-, hchans, -⟩ := hrange
    obtain ⟨-, -, hheat⟩ := hchans c
    have hexec := exec_row_of_ready hs (.readChannel (byte c.val))
    simp only [Command.answer, answerReadChannel, channelOf_byte] at hexec
    obtain rfl := Host.Outcome.next.inj (hread.symm.trans hexec)
    rw [chan_answered, State.updateHeat, State.chan_modChan_self]
    exact heatNow_updateHeat hheat hat hlater
  · have hexec := exec_row_of_ready hs (.writeProfile (byte c.val) r)
    simp only [Command.answer] at hexec
    rcases answerWriteProfile_cases p c r s with ⟨status, -, hanswer⟩ | ⟨-, hanswer⟩
    · rw [hanswer] at hexec
      obtain rfl := Host.Outcome.next.inj (hwrite.symm.trans hexec)
      rfl
    · exact absurd (congrArg Answer.status hanswer) hrefused

end Sys2Proof.Machine

/-!
The effective fold duty: the largest duty that cools, and the writes that set it.
-/

namespace Sys2Proof.Machine

/-! ## The largest duty -/

theorem largestUpTo_le (ok : Nat → Bool) (n : Nat) : largestUpTo ok n ≤ n := by
  induction n with
  | zero => exact le_rfl
  | succ n ih =>
    rw [largestUpTo]
    split
    · exact le_rfl
    · exact ih.trans n.le_succ

theorem le_largestUpTo {ok : Nat → Bool} {m : Nat} (hok : ok m = true) {n : Nat} (hm : m ≤ n) :
    m ≤ largestUpTo ok n := by
  induction n with
  | zero => exact hm
  | succ n ih =>
    rw [largestUpTo]
    split
    · exact hm
    · rename_i hnot
      refine ih (Nat.le_of_lt_succ (lt_of_le_of_ne hm ?_))
      rintro rfl
      exact hnot hok

theorem ceilDiv_mono {a b : Nat} (h : a ≤ b) (d : Nat) : ceilDiv a d ≤ ceilDiv b d :=
  Nat.div_le_div_right (by omega)

/-- The draw does not fall as the duty rises (R40). -/
theorem Profile.drawAt_mono (pr : Profile) {d d' : Nat} (h : d ≤ d') : pr.drawAt d ≤ pr.drawAt d' :=
  ceilDiv_mono (Nat.mul_le_mul_left _ h) 16

theorem Profile.netRateAt_neg_iff (pr : Profile) (draw : Nat) :
    pr.netRateAt draw < 0 ↔ draw * pr.heatFactor < pr.cooling := by
  rw [Profile.netRateAt]
  omega

/-! ## Where it is set -/

theorem effectiveFold_modChan {s : State} {c : Chan} {f : Channel → Channel}
    (hf : (f (s.chan c)).effectiveFold = (s.chan c).effectiveFold) (d : Chan) :
    ((s.modChan c f).chan d).effectiveFold = (s.chan d).effectiveFold := by
  rw [State.chan_modChan]
  split
  · rename_i hd
    rw [hf, hd]
  · rfl

/-- The order pipeline, the arbiter and the pulses leave the effective fold duty as it was. -/
theorem kept_effectiveFold (c : Chan) (v : Nat) : KeptCore fun s => (s.chan c).effectiveFold = v where
  ports _ _ _ h := h
  table _ _ _ h := h
  coil s d ph g hg _ _ h := by
    obtain ⟨-, -, hfold, -⟩ := hg ((s.setPhase d ph).chan d)
    have hphase : ((s.setPhase d ph).chan c).effectiveFold = (s.chan c).effectiveFold :=
      effectiveFold_modChan (s := s) (f := fun ch => { ch.updateHeat s.now with phase := ph }) rfl c
    exact (effectiveFold_modChan hfold c).trans (hphase.trans h)
  note s d g hg _ h := by
    obtain ⟨-, -, hfold, -⟩ := hg (s.chan d)
    exact (effectiveFold_modChan hfold c).trans h
  heat s d h := (effectiveFold_modChan (s := s) (f := Channel.updateHeat s.now) rfl c).trans h
  list _ _ _ h := h
  reflexes _ _ h := h
  lamps _ _ _ h := h
  free _ _ h := h

theorem effectiveFold_written (s : State) (c : Chan) (pr : Profile) (phase : Phase) (front : Front) :
    ((s.written c pr phase front).chan c).effectiveFold = pr.foldDutyInForce := by
  rw [chan_written]
  rfl

/-- The write of a record on a channel without a pulse sets the duty, whatever its queue does then (R40). -/
theorem effectiveFold_writeProfile {s : State} {c : Chan} (hfree : (s.chan c).phase.hasPulse = false)
    (pr : Profile) : ((s.writeProfile c pr).chan c).effectiveFold = pr.foldDutyInForce := by
  have K := kept_effectiveFold c pr.foldDutyInForce
  cases hphase : (s.chan c).phase with
  | offline => rw [writeProfile_of_offline hphase, effectiveFold_written]
  | faulted => rw [writeProfile_of_faulted hphase, effectiveFold_written]
  | idle =>
    cases henabled : pr.enabled with
    | true =>
      rw [writeProfile_enables hphase henabled]
      exact K.doAll true _ (K.depart true c (effectiveFold_written ..))
    | false =>
      rw [writeProfile_disables hphase henabled]
      exact K.doAll true _ (K.withdrawRequests c _ (K.depart true c (effectiveFold_written ..)))
  | kick | hold | fold | recycle => rw [hphase] at hfree; cases hfree

/-- Settles O21: `largestUpTo` for the duty, `netRate_fold_neg` for its rate, `effectiveFold_writeProfile` for an
accepted write, and the reset values. -/
theorem effectiveFoldDuty : Obligations.EffectiveFoldDuty := by
  refine ⟨fun pr hcooling => ?_, fun s t p c r hs hok hexec => ?_, fun s p c hs => ?_, fun c => ⟨?_, by decide⟩,
    fun s c => by rw [chan_tableReset]; rfl, fun _ => rfl⟩
  · intro d cools
    have hnet : pr.netRateAt (pr.drawAt d) < 0 := Profile.netRate_fold_neg hcooling
    have hcools : cools d := (pr.netRateAt_neg_iff _).mp hnet
    exact ⟨largestUpTo_le _ _, hcools, fun d' hle h => le_largestUpTo (decide_eq_true h) hle,
      fun d' hle => (Nat.mul_le_mul_right _ (pr.drawAt_mono hle)).trans_lt hcools, hnet⟩
  · have hready := exec_row_of_ready hs (.writeProfile (byte c.val) r)
    simp only [Command.answer] at hready
    rcases answerWriteProfile_cases p c r s with ⟨status, hne, hanswer⟩ | ⟨hfree, hanswer⟩
    · exact absurd ((congrArg Answer.status hanswer).symm.trans hok) hne
    · rw [hanswer] at hready
      obtain rfl := Host.Outcome.next.inj (hexec.symm.trans hready)
      exact effectiveFold_writeProfile hfree _
  · have hready := exec_row_of_ready hs (.readProfile (byte c.val))
    simp only [Command.answer, answerReadProfile, channelOf_byte] at hready
    exact hready
  · rw [reset_chan]; rfl

end Sys2Proof.Machine

/-!
The profile test and the cooling wait: what a record that can fire allows.
-/

namespace Sys2Proof.Machine

/-! ## The tests as inequalities -/

theorem Profile.canFire_eq_false_iff (pr : Profile) :
    pr.canFire = false ↔ 0 < pr.kickRate ∧ (pr.ceiling : Int) < pr.kickRate * pr.kickTime := by
  simp [Profile.canFire]

theorem Profile.kickFits_iff (pr : Profile) (heat length : Nat) :
    pr.kickFits heat length = true ↔ pr.kickRate ≤ 0 ∨ heat + pr.kickRate * length ≤ pr.ceiling := by
  simp [Profile.kickFits, Profile.excess]

theorem Profile.kickFits_eq_false_iff (pr : Profile) (heat length : Nat) :
    pr.kickFits heat length = false ↔ 0 < pr.kickRate ∧ pr.ceiling < heat + pr.kickRate * length := by
  rw [Bool.eq_false_iff, ne_eq, pr.kickFits_iff, not_or, not_le, not_le]

/-- A record that can fire lets a kick heat by no more than the ceiling (R45). -/
theorem Profile.kickRate_mul_le {pr : Profile} (hfire : pr.canFire = true) {length : Nat}
    (hlength : length ≤ pr.kickTime) : pr.kickRate * length ≤ pr.ceiling := by
  rcases le_or_gt pr.kickRate 0 with hcool | hheat
  · exact (Int.mul_nonpos_of_nonpos_of_nonneg hcool (Int.natCast_nonneg length)).trans (Int.natCast_nonneg _)
  · have hfull : pr.kickRate * pr.kickTime ≤ pr.ceiling := by
      by_contra hnot
      exact Bool.eq_false_iff.mp (pr.canFire_eq_false_iff.mpr ⟨hheat, not_le.mp hnot⟩) hfire
    exact (Int.mul_le_mul_of_nonneg_left (by exact_mod_cast hlength) hheat.le).trans hfull

/-- No kick fraction gives a kick longer than the kick time (R22). -/
theorem Profile.kickLength_le (pr : Profile) {k : Nat} (hk : k ≤ 16) : pr.kickLength k ≤ pr.kickTime :=
  (ceilDiv_mono (Nat.mul_le_mul_left _ hk) 16).trans pr.kickLength_full.le

/-- Under a record that can fire the excess is no more than the heat, which bounds the cooling wait (R45, R47). -/
theorem Profile.coolingWait_le {pr : Profile} (hfire : pr.canFire = true) (heat : Nat) {length : Nat}
    (hlength : length ≤ pr.kickTime) : pr.coolingWait heat length ≤ ceilDiv heat pr.cooling := by
  have hroom := Profile.kickRate_mul_le hfire hlength
  exact ceilDiv_mono (by rw [Profile.excess]; omega) _

/-- Settles O22: the test is `canFire_eq_false_iff`, a failing record is refused by the tests in their order
(`answerWriteProfile_eq`), and one that passes leaves room for every kick (`kickRate_mul_le`, `coolingWait_le`). -/
theorem profileThatCanFire : Obligations.ProfileThatCanFire := by
  refine ⟨fun pr => pr.canFire_eq_false_iff, fun s p c r hs hp hmode hidle hcold hfails => ?_,
    fun pr k hfire _ hk => ?_, by decide⟩
  · have hexec := exec_row_of_ready hs (.writeProfile (byte c.val) r)
    rw [Phase.busy_eq] at hidle
    have hanswer : answerWriteProfile p (byte c.val) r s = .refuse .profileCannotFire s := by
      rw [answerWriteProfile_eq hp, if_neg (not_not.mpr ((configAllowed_iff _ _).mp hmode)),
        if_neg (by simp [hidle]), if_neg (not_lt.mpr hcold), if_pos hfails]
    simp only [Command.answer, hanswer] at hexec
    exact hexec
  · have hlength := pr.kickLength_le hk
    have hroom := Profile.kickRate_mul_le hfire hlength
    exact ⟨(pr.kickFits_iff _ _).mpr (.inr (by simpa using hroom)),
      fun heat => Profile.coolingWait_le hfire heat hlength⟩

/-! ## The cooling wait -/

/-- Division rounded up is the least number that covers its dividend (00, Arithmetic). -/
theorem ceilDiv_le_iff {a b : Nat} (hb : 0 < b) (t : Nat) : ceilDiv a b ≤ t ↔ a ≤ b * t :=
  ceilDiv_le_iff_le_mul hb

/-- A kick that heats passes its test once the coil has cooled for the cooling wait, and no sooner (R47). -/
theorem Profile.kickFits_cooled_iff {pr : Profile} {heat length : Nat} (hfire : pr.canFire = true)
    (hcooling : 0 < pr.cooling) (hlength : length ≤ pr.kickTime) (hheat : heat ≤ Config.heatMax)
    (hrate : 0 < pr.kickRate) (t : Nat) :
    pr.kickFits (heatAfter heat (-(pr.cooling : Int)) t) length = true ↔ pr.coolingWait heat length ≤ t := by
  have hroom := Profile.kickRate_mul_le hfire hlength
  rw [Profile.kickFits_iff, Profile.coolingWait, ceilDiv_le_iff hcooling, Profile.excess, heatAfter]
  have hcooled : -(pr.cooling : Int) * t = -((pr.cooling * t : Nat) : Int) := by rw [Nat.cast_mul, neg_mul]
  rw [hcooled]
  omega

/-- Settles O24: by `kickFits_cooled_iff` the test passes after t ticks of cooling exactly if the wait is at most t; it
fails after none. -/
theorem coolingWaitIsTheLeast : Obligations.CoolingWaitIsTheLeast := by
  intro pr heat length hrange hfire hlength hheat hfails wait
  obtain ⟨-, -, -, -, -, ⟨hcooling, -⟩, -⟩ := hrange
  obtain ⟨hrate, -⟩ := (pr.kickFits_eq_false_iff heat length).mp hfails
  have hiff := Profile.kickFits_cooled_iff hfire hcooling hlength hheat hrate
  have hpos : 1 ≤ wait := by
    by_contra hzero
    have hfits := (hiff 0).mpr (by omega)
    rw [heatAfter_zero hheat] at hfits
    exact Bool.eq_false_iff.mp hfails hfits
  refine ⟨hpos, (hiff wait).mpr le_rfl, Bool.eq_false_iff.mpr fun hfits => ?_⟩
  have hle := (hiff (wait - 1)).mp hfits
  omega

end Sys2Proof.Machine

/-!
The cooling expiry: the kick test again on the same front.
-/

namespace Sys2Proof.Machine

/-! ## The expiry -/

theorem takeCooling_of_due {s : State} {c : Chan} {q : QueueMember} {rest : List QueueMember} {expiry : Nat}
    (hphase : (s.chan c).phase = .idle) (hqueue : (s.chan c).queue = q :: rest)
    (hfront : (s.chan c).front = .heatWait expiry) (hdue : expiry ≤ s.now) :
    s.takeCooling c = s.kickTest true c :=
  if_pos (by simp [coolingDue, hphase, hqueue, hfront, hdue])

theorem Reflex.fraction_kickShape (r : Reflex) : r.kickShape.fraction = 16 := by
  unfold Reflex.kickShape
  cases r.action <;> rfl

/-! ## Joining with no room -/

theorem examine_of_unfit {s : State} {m : Member} {rest : List Member} (hlist : s.arbiter.list = m :: rest)
    (hfits : s.arbiter.fits m = false) : s.examine = s := by
  simp [State.examine, hlist, examineFrom, hfits]

/-- A front that joins an empty list without room under its limit stays in it, and its owner is told that it waits
(R60, R62, R64). -/
theorem join_of_full {s : State} {c : Chan} {q : QueueMember} (hlist : s.arbiter.list = [])
    (hfull : s.arbiter.limit q.owner < s.arbiter.units + (s.chan c).profile.kickDraw) :
    s.join true c q = (s.joined c q).tellRailWait q.owner := by
  have hmember : (s.joined c q).arbiter.list = [s.memberOf c q] := by simp [State.joined, hlist, insertMember]
  have hexamine : (s.joined c q).examine = s.joined c q :=
    examine_of_unfit hmember (decide_eq_false (not_le.mpr hfull))
  have hlists : (s.joined c q).arbiter.lists c = true := lists_of_mem (m := s.memberOf c q) (by simp [hmember])
  rw [join_eq, hexamine, if_pos hlists]

/-- A front that passes its kick test and has room on an ON rail kicks at once (R46, R60, R62, R63). -/
theorem kickTest_kicks {s : State} {c : Chan} {q : QueueMember} {rest : List QueueMember}
    (hphase : (s.chan c).phase = .idle) (hqueue : (s.chan c).queue = q :: rest) (hlist : s.arbiter.list = [])
    (hrail : s.control.rail = .on)
    (hroom : s.arbiter.units + (s.chan c).profile.kickDraw ≤ s.arbiter.limit q.owner)
    (hfits : (s.chan c).profile.kickFits ((s.chan c).heatNow s.now)
      ((s.chan c).profile.kickLength (s.kickShape q.owner).fraction) = true) :
    s.kickTest true c = s.kicked c q.owner := by
  have hchan : (s.updateHeat c).chan c = (s.chan c).updateHeat s.now := State.chan_modChan_self ..
  rw [kickTest_of_fits hqueue hfits,
    join_grants (s := s.updateHeat c) (by rw [hchan]; exact hphase) hlist hrail (by rw [hchan]; exact hroom),
    State.kicked_updateHeat]

/-- A front that passes its kick test and has no room, or no ON rail, waits in the list (R46, R60, R64). -/
theorem kickTest_waits {s : State} {c : Chan} {q : QueueMember} {rest : List QueueMember}
    (hqueue : (s.chan c).queue = q :: rest) (hlist : s.arbiter.list = [])
    (hwaits : s.control.rail ≠ .on
      ∨ s.arbiter.limit q.owner < s.arbiter.units + (s.chan c).profile.kickDraw)
    (hfits : (s.chan c).profile.kickFits ((s.chan c).heatNow s.now)
      ((s.chan c).profile.kickLength (s.kickShape q.owner).fraction) = true) :
    s.kickTest true c = ((s.updateHeat c).joined c q).tellRailWait q.owner := by
  have hchan : (s.updateHeat c).chan c = (s.chan c).updateHeat s.now := State.chan_modChan_self ..
  rw [kickTest_of_fits hqueue hfits]
  rcases hwaits with hrail | hfull
  · exact join_of_railOff (s := s.updateHeat c) hrail c q
  · exact join_of_full (s := s.updateHeat c) hlist (by rw [hchan]; exact hfull)

/-- Joining an empty list, as one write of the channel and the arbiter. -/
theorem joined_updateHeat {s : State} (hlist : s.arbiter.list = []) (c : Chan) (q : QueueMember) :
    (s.updateHeat c).joined c q =
      { s.modChan c fun ch => { ch with heat := (s.chan c).heatNow s.now, heatAt := s.now, front := .admission } with
        arbiter := { s.arbiter with list := [s.memberOf c q], joins := s.arbiter.joins + 1 } } := by
  have hmember : (s.updateHeat c).memberOf c q = s.memberOf c q := by
    rw [State.memberOf, State.updateHeat, State.chan_modChan_self]
    rfl
  have hinsert : insertMember (s.memberOf c q) (s.updateHeat c).arbiter.list = [s.memberOf c q] :=
    congrArg (insertMember (s.memberOf c q)) hlist
  have hwrite : ((s.updateHeat c).modChan c fun ch => { ch with front := .admission }) =
      s.modChan c fun ch => { ch with heat := (s.chan c).heatNow s.now, heatAt := s.now, front := .admission } := by
    rw [State.updateHeat, State.modChan_modChan]
    exact State.modChan_congr rfl
  rw [State.joined, hmember, hinsert, ← hwrite]
  rfl

/-- Settles O40: the due expiry is the kick test again (`takeCooling_of_due`), which a reflex request fails
(`kickTest_of_unfit`), or passes and waits (`kickTest_waits`) or kicks (`kickTest_kicks`). -/
theorem coolingExpiryTestsAgain : Obligations.CoolingExpiryTestsAgain := by
  intro s c q x expiry hp hphase hqueue howner hfront hdue hlist pr heat warm
  have hexec : exec (.coolingExpiry c) s = .next (s.kickTest true c).decideLines :=
    (event_of_powered hp (State.takeCooling · c)).trans
      (by rw [takeCooling_of_due hphase hqueue hfront hdue])
  have hfraction : (s.kickShape q.owner).fraction = 16 := by
    rw [howner]
    exact Reflex.fraction_kickShape _
  refine ⟨fun hfits => ?_, fun hfits hwaits => ?_, fun hfits hrail hroom => ?_⟩
  · rw [hexec, kickTest_of_unfit hqueue (by rw [hfraction]; exact hfits), howner]
    refine congrArg (fun t : State => Host.Outcome.next (t.tellHeatWait (.reflex x)).decideLines)
      (State.modChan_congr ?_)
    rw [← howner, hfraction]
    rfl
  · rw [hexec, kickTest_waits hqueue hlist (by rw [howner]; exact hwaits) (by rw [hfraction]; exact hfits),
      joined_updateHeat hlist, State.memberOf, howner]
    rfl
  · refine ⟨_, hexec, ?_⟩
    rw [kickTest_kicks hphase hqueue hlist hrail (by rw [howner]; exact hroom) (by rw [hfraction]; exact hfits),
      State.chan_decideLines, State.reflexAt_decideLines, kicked_chan_self, howner]
    have harbiter : (s.kicked c (.reflex x)).decideLines.arbiter = (s.kicked c (.reflex x)).arbiter := rfl
    rw [harbiter, kicked_arbiter, hqueue]
    refine ⟨rfl, by simp [howner], rfl, hlist, rfl, ?_, ?_⟩
    · rw [howner] at hfraction
      simp only [Option.map_some, State.kickPulse, hfraction, Profile.kickLength_full]
      rfl
    · rw [kicked_reflexAt_self]

end Sys2Proof.Machine

/-!
The units in use: the sum of the draws moves with the draw of the one channel written, and no write parts the two.
-/

namespace Sys2Proof.Machine

/-! ## The sum of the draws -/

/-- Replacing one element of a list moves a sum over it by the difference of the two. -/
theorem sum_map_set_add {α : Type} (g : α → Nat) (a : α) (l : List α) (i : Nat) (h : i < l.length) :
    ((l.set i a).map g).sum + g l[i] = (l.map g).sum + g a := by
  have hi : i < (l.map g).length := by simpa using h
  rw [List.map_set, List.sum_set, if_pos hi, ← List.sum_take_add_sum_drop (l.map g) i,
    List.drop_eq_getElem_cons hi, List.sum_cons, List.getElem_map]
  omega

theorem totalDraw_modChan (s : State) (c : Chan) (f : Channel → Channel) :
    (s.modChan c f).totalDraw + (s.chan c).draw = s.totalDraw + (f (s.chan c)).draw := by
  have hsum := sum_map_set_add Channel.draw (f (s.chan c)) s.channels.toList c.val (by simp)
  rw [← toList_set] at hsum
  exact hsum

theorem totalDraw_modChan_of_draw {s : State} {c : Chan} {f : Channel → Channel}
    (h : (f (s.chan c)).draw = (s.chan c).draw) : (s.modChan c f).totalDraw = s.totalDraw := by
  have hmoved := totalDraw_modChan s c f
  omega

/-- No channel draws more than all of them. -/
theorem draw_le_totalDraw (s : State) (c : Chan) : (s.chan c).draw ≤ s.totalDraw :=
  List.single_le_sum (fun _ _ => Nat.zero_le _) _ (List.mem_map_of_mem (by simp [State.chan]))

/-- Where every channel is mapped to one of the same draw, the sum stays. -/
theorem totalDraw_mapTable (s : State) {f : Channel → Channel} (h : ∀ ch, (f ch).draw = ch.draw) :
    State.totalDraw { s with channels := mapTable s.channels f } = s.totalDraw := by
  show ((s.channels.toList.map f).map Channel.draw).sum = _
  rw [List.map_map]
  exact congrArg List.sum (List.map_congr_left fun ch _ => h ch)

/-! ## The draws that a write keeps -/

/-- The draw in a state depends on the profile and the effective fold duty alone (R39, R40). -/
theorem SameCoil.drawIn {a b : Channel} (h : SameCoil a b) (ph : Phase) : a.drawIn ph = b.drawIn ph := by
  obtain ⟨hprofile, -, hfold, -⟩ := h
  cases ph <;> simp only [Channel.drawIn, hprofile, hfold]

theorem SameCoil.draw {a b : Channel} (h : SameCoil a b) : a.draw = b.draw := by
  rw [Channel.draw, h.drawIn, h.2.1, Channel.draw]

theorem Channel.draw_of_not_live {ch : Channel} (h : ch.phase.isLive = false) : ch.draw = 0 :=
  ch.drawIn_of_not_live h

theorem Phase.not_live_of_no_pulse {ph : Phase} (h : ph.hasPulse = false) : ph.isLive = false := by
  cases ph <;> first | rfl | cases h

/-! ## The units in use -/

/-- A write of a channel that keeps its draw leaves the units in use right. -/
theorem unitsRight_modChan {s : State} {c : Chan} {f : Channel → Channel}
    (hdraw : (f (s.chan c)).draw = (s.chan c).draw) (h : s.unitsRight) : (s.modChan c f).unitsRight :=
  h.trans (totalDraw_modChan_of_draw hdraw).symm

/-- A change of a channel's state moves the units in use and the sum by the same difference (R57): the draw left is
part of the sum, so that the units do not fall short of it. -/
theorem unitsRight_setPhase {s : State} (c : Chan) (ph : Phase) (h : s.unitsRight) : (s.setPhase c ph).unitsRight := by
  have hmoved : (s.setPhase c ph).totalDraw + (s.chan c).draw = s.totalDraw + (s.chan c).drawIn ph :=
    totalDraw_modChan s c fun ch => { ch.updateHeat s.now with phase := ph }
  have hunits : s.arbiter.units = s.totalDraw := h
  have hleft := draw_le_totalDraw s c
  show s.arbiter.units + (s.chan c).drawIn ph - (s.chan c).draw = _
  omega

theorem totalDraw_tableReset (s : State) : s.tableReset.totalDraw = 0 := by
  refine List.sum_eq_zero fun d hd => ?_
  obtain ⟨ch, hch, rfl⟩ := List.mem_map.mp hd
  obtain ⟨old, -, rfl⟩ := List.mem_map.mp hch
  rfl

/-- No write of an event parts the units in use from the sum of the draws. -/
theorem kept_unitsRight : KeptByAll State.unitsRight where
  ports _ _ _ h := h
  table _ _ _ h := h
  coil _ c ph _ hg _ _ h := unitsRight_modChan (hg _).draw (unitsRight_setPhase c ph h)
  note _ _ _ hg _ h := unitsRight_modChan (hg _).draw h
  heat _ _ h := unitsRight_modChan rfl h
  list _ _ _ h := h
  reflexes _ _ h := h
  lamps _ _ _ h := h
  free _ _ h := h
  port _ _ _ h := h
  profile s c r hfree h := by
    have hrest := Phase.not_live_of_no_pulse hfree
    refine unitsRight_modChan ?_ h
    rw [Channel.draw_of_not_live hrest, Channel.draw_of_not_live (by exact hrest)]
  shorts s h := h.trans (totalDraw_mapTable s (f := fun ch => { ch with shortAt := none }) fun _ => rfl).symm
  rail _ _ _ _ _ h := h
  switches _ _ h := h
  control _ _ _ h := h
  reset s _ := (totalDraw_tableReset s).symm
  pins _ _ h := h
  powerOn _ _ := reset_unitsRight
  powerOff _ _ := reset_unitsRight
  tick _ h := h

/-- Settles O55: each write of the kit moves the units in use and the sum of the draws together (`kept_unitsRight`), so
every command does. -/
theorem unitsAreTheSumOfTheDraws : Obligations.UnitsAreTheSumOfTheDraws :=
  fun _ _ _ hs h => kept_unitsRight.exec hs h

end Sys2Proof.Machine

/-!
An examination of the admission list, as the grants it makes one after another.
-/

namespace Sys2Proof.Machine

/-! ## One grant -/

/-- The state after the grant of the front of the admission list, whose rest is left (R63). -/
def State.granted (s : State) (m : Member) (rest : List Member) : State :=
  { s with arbiter := { s.arbiter with list := rest } }.grant m

theorem granted_control (s : State) (m : Member) (rest : List Member) :
    (s.granted m rest).control = s.control := by
  unfold State.granted State.grant
  cases m.owner <;> rfl

theorem granted_arbiter {s : State} {m : Member} (hidle : (s.chan m.channel).phase = .idle) (rest : List Member) :
    (s.granted m rest).arbiter =
      { s.arbiter with units := s.arbiter.units + (s.chan m.channel).profile.kickDraw, list := rest } := by
  have hleft : (s.chan m.channel).draw = 0 := Channel.draw_of_not_live (by rw [hidle]; rfl)
  have hswap : (s.granted m rest).arbiter =
      { s.arbiter with
        units := s.arbiter.units + (s.chan m.channel).profile.kickDraw - (s.chan m.channel).draw
        list := rest } := by
    unfold State.granted State.grant
    cases m.owner <;> rfl
  rw [hswap, hleft, Nat.sub_zero]

/-- A channel whose kick has started for an owner (R22, R63). -/
def Channel.KicksFor (ch : Channel) (o : Owner) : Prop :=
  ch.phase = .kick ∧ ch.pulse.map (·.owner) = some o

theorem granted_kicks (s : State) (m : Member) (rest : List Member) :
    ((s.granted m rest).chan m.channel).KicksFor m.owner := by
  simp only [State.granted, State.grant, chan_tellKick, chan_setPhase_modChan, if_pos]
  exact ⟨rfl, rfl⟩

theorem granted_chan_ne (s : State) {m : Member} {c : Chan} (h : m.channel ≠ c) (rest : List Member) :
    (s.granted m rest).chan c = s.chan c := by
  simp only [State.granted, State.grant, chan_tellKick, chan_setPhase_modChan, if_neg h]
  rfl

/-! ## The grants of an examination -/

/-- Whether an examination stops: the list is empty, the rail is not ON or the front does not fit (R62, R63). -/
def State.Stops (s : State) : Prop :=
  s.arbiter.list = [] ∨ s.control.rail ≠ .on
    ∨ ∃ m rest, s.arbiter.list = m :: rest ∧ s.arbiter.limit m.owner < s.arbiter.units + m.draw

/-- `Grants s granted t`: the grants from the front of the list that lead from a state to one where they stop. -/
inductive Grants : State → List Member → State → Prop where
  | stop {s : State} (hstops : s.Stops) : Grants s [] s
  | grant {s t : State} {m : Member} {rest granted : List Member} (hlist : s.arbiter.list = m :: rest)
      (hidle : (s.chan m.channel).phase = .idle)
      (hfits : s.arbiter.units + m.draw ≤ s.arbiter.limit m.owner)
      (hrest : Grants (s.granted m rest) granted t) : Grants s (m :: granted) t

/-- Every listed member is of an IDLE channel, and of a channel of its own (R33, R65). -/
structure State.Listed (s : State) : Prop where
  idle : ∀ m ∈ s.arbiter.list, (s.chan m.channel).phase = .idle
  nodup : (s.arbiter.list.map Member.channel).Nodup

theorem channel_ne_of_nodup {m : Member} {rest : List Member} (h : ((m :: rest).map Member.channel).Nodup) :
    ∀ x ∈ rest, m.channel ≠ x.channel := by
  rw [List.map_cons, List.nodup_cons] at h
  exact fun x hx he => h.1 (he ▸ List.mem_map_of_mem hx)

theorem State.Listed.granted {s : State} {m : Member} {rest : List Member} (h : s.Listed)
    (hlist : s.arbiter.list = m :: rest) : (s.granted m rest).Listed := by
  obtain ⟨hidle, hnodup⟩ := h
  rw [hlist] at hidle hnodup
  have harbiter := granted_arbiter (hidle m (List.mem_cons_self ..)) rest
  refine ⟨fun x hx => ?_, ?_⟩
  · rw [harbiter] at hx
    rw [granted_chan_ne s (channel_ne_of_nodup hnodup x hx)]
    exact hidle x (List.mem_cons_of_mem _ hx)
  · rw [harbiter]
    exact (List.nodup_cons.mp hnodup).2

/-- An examination makes the grants that its list allows. -/
theorem grants_examine {s : State} (h : s.Listed) : ∃ granted, Grants s granted s.examine := by
  unfold State.examine
  generalize hlist : s.arbiter.list = l
  induction l generalizing s with
  | nil => exact ⟨[], .stop (.inl hlist)⟩
  | cons m rest ih =>
    have hidle := h.idle m (by simp [hlist])
    rw [examineFrom]
    split
    · rename_i hgrant
      simp only [Bool.and_eq_true] at hgrant
      obtain ⟨⟨-, hfits⟩, -⟩ := hgrant
      obtain ⟨granted, hrest⟩ := ih (h.granted hlist) (by rw [granted_arbiter hidle])
      exact ⟨m :: granted, .grant hlist hidle (of_decide_eq_true hfits) hrest⟩
    · rename_i hstop
      refine ⟨[], .stop (.inr ?_)⟩
      by_cases hrail : s.control.rail = .on
      · refine .inr ⟨m, rest, hlist, not_le.mp fun hfits => hstop ?_⟩
        simp [(railOn_iff s).mpr hrail, Arbiter.fits, hfits, hidle]
      · exact .inl hrail

namespace Grants

variable {s t : State} {granted : List Member}

theorem stops (h : Grants s granted t) : t.Stops := by
  induction h with
  | stop hstops => exact hstops
  | grant _ _ _ _ ih => exact ih

theorem list_eq (h : Grants s granted t) : s.arbiter.list = granted ++ t.arbiter.list := by
  induction h with
  | stop => rfl
  | grant hlist hidle _ _ ih =>
    rw [granted_arbiter hidle] at ih
    rw [hlist, List.cons_append, ← ih]

/-- A grant writes its own channel alone. -/
theorem chan_eq (h : Grants s granted t) {c : Chan} (hc : ∀ m ∈ granted, m.channel ≠ c) : t.chan c = s.chan c := by
  induction h with
  | stop => rfl
  | grant _ _ _ _ ih =>
    obtain ⟨hm, hrest⟩ := List.forall_mem_cons.mp hc
    rw [ih hrest, granted_chan_ne _ hm]

theorem kicks (h : Grants s granted t) (hnodup : (granted.map Member.channel).Nodup) :
    ∀ m ∈ granted, (t.chan m.channel).KicksFor m.owner := by
  induction h with
  | stop => nofun
  | @grant s _ m rest _ _ _ _ hrest ih =>
    refine List.forall_mem_cons.mpr ⟨?_, ih (List.nodup_cons.mp hnodup).2⟩
    rw [hrest.chan_eq fun x hx => (channel_ne_of_nodup hnodup x hx).symm]
    exact granted_kicks s m rest

/-- A grant is made only with room under the limit, which is at most the budget (R62). -/
theorem units_le (h : Grants s granted t) (hnodup : (granted.map Member.channel).Nodup)
    (hdraw : ∀ m ∈ granted, m.draw = (s.chan m.channel).profile.kickDraw)
    (hunits : s.arbiter.units ≤ s.arbiter.budget) : t.arbiter.units ≤ t.arbiter.budget := by
  induction h with
  | stop => exact hunits
  | @grant s _ m rest _ _ hidle hfits _ ih =>
    obtain ⟨hm, hothers⟩ := List.forall_mem_cons.mp hdraw
    have hlimit : s.arbiter.limit m.owner ≤ s.arbiter.budget := by
      cases m.owner with
      | order => exact Nat.sub_le _ _
      | reflex => exact le_rfl
    refine ih (List.nodup_cons.mp hnodup).2 (fun x hx => ?_) ?_
    · rw [granted_chan_ne s (channel_ne_of_nodup hnodup x hx), hothers x hx]
    · rw [granted_arbiter hidle, ← hm]
      exact hfits.trans hlimit

end Grants

/-- Settles O25: an examination is a chain of grants (`grants_examine`), of which each part of the statement is an
induction: `Grants.stops`, `Grants.kicks`, `Grants.chan_eq`, `Grants.units_le`. -/
theorem examinationRunsToItsEnd : Obligations.ExaminationRunsToItsEnd := by
  intro s hidle hnodup t
  obtain ⟨granted, h⟩ := grants_examine ⟨hidle, hnodup⟩
  have hlist : s.arbiter.list = granted ++ t.arbiter.list := h.list_eq
  rw [hlist, List.map_append, List.nodup_append] at hnodup
  obtain ⟨hgranted, -, hapart⟩ := hnodup
  refine ⟨h.stops, ⟨granted, hlist, h.kicks hgranted⟩, fun m hm => h.chan_eq fun x hx => ?_, fun hdraw hunits => ?_⟩
  · exact hapart _ (List.mem_map_of_mem hx) _ (List.mem_map_of_mem hm)
  · exact h.units_le hgranted (fun m hm => hdraw m (by rw [hlist]; exact List.mem_append_left _ hm)) hunits

end Sys2Proof.Machine

/-!
WRITE RAIL and READ RAIL.
-/

namespace Sys2Proof.Machine

theorem waitCause_of_nil {s : State} (h : s.arbiter.list = []) : s.waitCause = 0 := by
  rw [State.waitCause, h]

theorem waitCause_of_cons {s : State} {m : Member} {rest : List Member} (h : s.arbiter.list = m :: rest) :
    s.waitCause =
      if s.arbiter.limit m.owner < m.draw then 3 else if s.control.rail = .on then 2 else 1 := by
  simp only [State.waitCause, h, railOn_iff]

/-- Who may write the rail, and when (R55). -/
theorem railWriteAllowed_iff (mode : Mode) (p : Port) :
    railWriteAllowed mode p = true ↔
      p = .p0 ∧ mode ≠ .service ∨ p = .p2 ∧ (mode = .idle ∨ mode = .service) := by
  cases p <;> cases mode <;> simp [railWriteAllowed]

theorem answerWriteRail_wrongMode {s : State} {p : Port} (hp : p ≠ .p1)
    (h : railWriteAllowed s.control.mode p = false) (budget reserve : Byte) :
    answerWriteRail p budget reserve s = .refuse .wrongMode s := by
  simp [answerWriteRail, hp, h]

theorem answerWriteRail_ok {s : State} {p : Port} (h : railWriteAllowed s.control.mode p = true)
    (budget reserve : Byte) :
    answerWriteRail p budget reserve s =
      ⟨.ok, [byte budget.toNat, byte (min reserve.toNat budget.toNat)],
        State.examine
          { s with
            arbiter := { s.arbiter with budget := budget.toNat, reserve := min reserve.toNat budget.toNat } }⟩ := by
  have hp : p ≠ .p1 := by
    rintro rfl
    simp [railWriteAllowed_iff] at h
  simp [answerWriteRail, hp, h]

theorem byte_toNat (b : Byte) : byte b.toNat = b := by simp [byte]

/-- Settles O27: on a ready port each command is its block's answer (`exec_row_of_ready`), and an empty list has nothing
to examine. -/
theorem railCommands : Obligations.RailCommands := by
  intro s p budget reserve hs mode
  have hwrite := exec_row_of_ready hs (.writeRail budget reserve)
  simp only [Command.answer] at hwrite
  refine ⟨?_, fun hwrong => ?_, fun hright hlist => ?_, ?_⟩
  · rintro rfl
    exact hwrite
  · have hp : p ≠ .p1 := by rintro rfl; simp at hwrong
    have hrefused : railWriteAllowed s.control.mode p = false := by
      rw [Bool.eq_false_iff, ne_eq, railWriteAllowed_iff]
      rintro (⟨rfl, hmode⟩ | ⟨rfl, hmode⟩)
      · simp [mode, hmode] at hwrong
      · rcases hmode with hmode | hmode <;> simp [mode, hmode] at hwrong
    rw [answerWriteRail_wrongMode hp hrefused] at hwrite
    exact hwrite
  · rw [answerWriteRail_ok ((railWriteAllowed_iff _ _).mpr hright), examine_of_nil (by exact hlist),
      byte_toNat] at hwrite
    exact hwrite
  · refine (exec_row_of_ready hs .readRail).trans ?_
    simp only [Command.answer, answerReadRail, List.length_take]
    cases hlist : s.arbiter.list with
    | nil => rw [waitCause_of_nil hlist]; rfl
    | cons m rest => rw [waitCause_of_cons hlist]; rfl

end Sys2Proof.Machine

/-!
The end of an order: its record, held or in the queue, its entry and the chain tail.
-/

namespace Sys2Proof.Machine

/-- The good outcomes of an order are DONE and RELEASED (R94). -/
theorem EndStatus.good_iff (status : EndStatus) : status.good = true ↔ status = .done ∨ status = .released := by
  cases status <;> simp [EndStatus.good]

/-- A record enters its port's queue when there is room and none is held (R95). -/
theorem recordEnters_iff (ps : PortState) :
    ps.recordEnters = true ↔ ps.completions.length < 32 ∧ ps.held = [] := by
  rw [PortState.recordEnters, Bool.and_eq_true, decide_eq_true_eq, List.isEmpty_iff]
  rfl

/-- The chain tail after an end, as R102 gives it. -/
theorem Tail.atEnd_eq (t : Tail) (tag : Byte) (status : EndStatus) :
    t.atEnd tag status.good =
      if t.entry = some tag then ⟨none, if status = .done ∨ status = .released then .good else .bad⟩ else t := by
  simp only [Tail.atEnd, beq_iff_eq, EndStatus.good_iff]

/-- The end of a quiet order frees its entry and leaves no record (R90). -/
theorem conclude_of_quiet {s : State} {e : Entry} {status : EndStatus} (hquiet : e.order.quiet = true) :
    s.conclude e status =
      (s.modPort e.port fun ps => { ps with tail := ps.tail.atEnd e.order.tag status.good }).freeEntry e.port
        e.order.tag := by
  simp only [State.conclude, hquiet, if_true]

/-- The end of an order whose record may not enter the queue: the record and the entry are held (R98). -/
theorem conclude_of_held {s : State} {e : Entry} {status : EndStatus} (hquiet : e.order.quiet = false)
    (hfull : (s.port e.port).recordEnters = false) :
    s.conclude e status =
      (s.modPort e.port fun ps =>
        { ps with
          tail := ps.tail.atEnd e.order.tag status.good
          held := ps.held ++ [e.record status s.time] }).modEntry e.port e.order.tag fun e =>
            { e with stage := .doneHeld } := by
  have hfull' : ((s.modPort e.port fun ps =>
      { ps with tail := ps.tail.atEnd e.order.tag status.good }).port e.port).recordEnters = false := by
    simpa [PortState.recordEnters] using hfull
  simp only [State.conclude, hquiet, Bool.false_eq_true, if_false, hfull', State.modPort_modPort]

/-- Settles O30: the three ends are `conclude_of_quiet`, `conclude_of_enters` and `conclude_of_held`, with the tail as
`Tail.atEnd_eq` gives it. -/
theorem endOfAnOrder : Obligations.EndOfAnOrder := by
  intro s e status p tail record room
  have htail : (s.port p).tail.atEnd e.order.tag status.good = tail := Tail.atEnd_eq ..
  have hroom : (s.port p).recordEnters = true ↔ room := recordEnters_iff _
  refine ⟨fun hquiet => ?_, fun hquiet hfits => ?_, fun hquiet hfull => ?_⟩
  · rw [conclude_of_quiet hquiet]
    exact congrArg (State.freeEntry · p e.order.tag) (State.modPort_congr (by rw [htail]))
  · rw [conclude_of_enters hquiet (hroom.mpr hfits)]
    exact congrArg (State.freeEntry · p e.order.tag) (State.modPort_congr (by rw [htail]; rfl))
  · rw [conclude_of_held hquiet (Bool.eq_false_iff.mpr fun h => hfull (hroom.mp h))]
    exact congrArg (fun t => State.modEntry t p e.order.tag fun e => { e with stage := .doneHeld })
      (State.modPort_congr (by rw [htail]; rfl))

end Sys2Proof.Machine

/-!
POST ORDER.
-/

namespace Sys2Proof.Machine

theorem modeAllows_iff (mode : Mode) (p : Port) :
    modeAllows mode p = true ↔
      (mode = .attract ∨ mode = .game) ∧ p ≠ .p2 ∨ mode = .tilt ∧ p = .p0 ∨ mode = .service ∧ p = .p2 := by
  cases mode <;> cases p <;> simp [modeAllows]

/-- A tag is live on a port in its ring or in the pending table (R76). -/
theorem tagLive_iff (s : State) (p : Port) (tag : Byte) :
    s.tagLive p tag = true ↔
      (s.port p).ring.slots.any (fun slot => slot.order.tag == tag) = true
        ∨ s.table.any (fun e => e.port == p && e.order.tag == tag) = true := by
  rw [State.tagLive, Bool.or_eq_true, State.entry, List.find?_isSome, List.any_eq_true (l := s.table)]
  rfl

/-- The tests of a POST ORDER whose channel and kind are known, in their order (R74). -/
theorem orderRefusal_eq (s : State) (p : Port) (r : OrderRecord) (c : Chan) (kind : OrderKind) :
    s.orderRefusal p r c kind =
      if kind = .train ∧ r.count = 0 then some .badOrder
      else if (s.chan c).profile.posting.get p = false then some .notPermitted
      else if (s.chan c).profile.enabled = false then some .channelOffline
      else if ¬modeAllows s.control.mode p = true then some .wrongMode
      else if s.tagLive p r.tag = true then some .tagInUse
      else if 32 ≤ (s.port p).ring.slots.length then some .ringFull
      else none := by
  have hcount : r.count.toNat = 0 ↔ r.count = 0 := by rw [BitVec.toNat_eq]; rfl
  simp only [State.orderRefusal, Bool.and_eq_true, beq_iff_eq, decide_eq_true_eq, hcount, Bool.not_eq_true',
    Bool.not_eq_true, Config.ringSize]
  congr

/-- An order accepted at the quota stays in its ring (R77, R79). -/
theorem acceptOrder_at_quota {s : State} {p : Port} (hquota : 16 ≤ (s.entriesOf p).length) (o : Order) :
    s.acceptOrder p o =
      s.modPort p fun ps => { ps with ring := { ps.ring with slots := ps.ring.slots ++ [⟨o, none⟩] } } := by
  let t := s.modPort p fun ps => { ps with ring := { ps.ring with slots := ps.ring.slots ++ [⟨o, none⟩] } }
  have hfull : ¬(t.entriesOf p).length < Config.quota := Nat.not_lt.mpr hquota
  have hrun : Work.run true (.takes p) t = ⟨[], [], t⟩ := by
    cases hslots : (t.port p).ring.slots <;> simp only [Work.run, takeHead, hslots, if_neg hfull]
  show t.doAll true [.takes p] = t
  rw [doAll_cons, hrun]
  exact doAll_nil true t

/-- Settles O28: the tests are `orderRefusal_eq`, and an order that passes them all is accepted at the quota
(`acceptOrder_at_quota`) in its working values (`workingOrder_eq`). -/
theorem postOrderTestsAndRing : Obligations.PostOrderTestsAndRing := by
  intro s p r hs refused
  have hexec := exec_row_of_ready hs (.postOrder r)
  simp only [Command.answer] at hexec
  refine ⟨fun hbad => ?_, fun c kind hc hk => ?_⟩
  · have hanswer : answerPostOrder p r s = .refuse .badOrder s := by
      unfold answerPostOrder
      split
      · rename_i c kind hc hk
        rcases hbad with h | h
        · rw [hc] at h; cases h
        · rw [hk] at h; cases h
      · rfl
    rw [hanswer] at hexec
    exact hexec
  · intro pr ring mode allowed o
    have htests := orderRefusal_eq s p r c kind
    have ho : workingOrder r c kind = o := workingOrder_eq r c kind
    simp only [modeAllows_iff, tagLive_iff] at htests
    let kept : Prop := 16 ≤ (s.entriesOf p).length →
      exec (.postOrder p r) s =
        .next ((s.modPort p fun ps =>
          { ps with ring := ⟨ring.head, ring.slots ++ [⟨o, none⟩]⟩ }).answered p .ok
            [byte ((ring.head + ring.slots.length) % 32)])
    have htested : (s.orderRefusal p r c kind).elim kept refused := by
      cases hrefusal : s.orderRefusal p r c kind with
      | some status =>
        simp only [answerPostOrder, hc, hk, hrefusal] at hexec
        exact hexec
      | none =>
        intro hquota
        simp only [answerPostOrder, hc, hk, hrefusal, ho, acceptOrder_at_quota hquota] at hexec
        exact hexec
    rw [htests] at htested
    simp only [apply_ite (Option.elim · kept refused), Option.elim_some, Option.elim_none] at htested
    exact htested

end Sys2Proof.Machine

/-!
READ COMPLETIONS and READ RING.
-/

namespace Sys2Proof.Machine

/-- With no record held nothing moves into the completion queue. -/
theorem moveHeld_of_none {s : State} {p : Port} (hheld : (s.port p).held = []) (n : Nat) : moveHeld p n s = s := by
  cases n with
  | zero => rfl
  | succ n => simp only [moveHeld, hheld]

/-- The state in which held records have entered a port's completion queue and their entries are freed (R97). -/
def State.movedIn (s : State) (p : Port) (moved rest : List Completion) : State :=
  { s with
    table := s.table.filter fun e => !(e.port == p && moved.any fun r => r.tag == e.order.tag) }.modPort p fun ps =>
      { ps with completions := ps.completions ++ moved, held := rest }

theorem port_movedIn (s : State) (p : Port) (moved rest : List Completion) :
    (s.movedIn p moved rest).port p =
      { s.port p with completions := (s.port p).completions ++ moved, held := rest } :=
  State.port_modPort_self { s with
    table := s.table.filter fun e => !(e.port == p && moved.any fun r => r.tag == e.order.tag) } p _

theorem movedIn_nil (s : State) (p : Port) : s.movedIn p [] (s.port p).held = s := by
  have htable : s.table.filter (fun e => !(e.port == p && ([] : List Completion).any fun r => r.tag == e.order.tag)) =
      s.table := List.filter_eq_self.mpr fun e _ => by simp
  have hport : { s.port p with
      completions := (s.port p).completions ++ []
      held := (s.port p).held } = s.port p := by rw [List.append_nil]
  simp only [State.movedIn, htable, State.modPort]
  exact congrArg (fun ports => { s with ports := ports }) ((congrArg _ hport).trans (PerPort.set_get _ p))

/-- One record moved in, and then more. -/
theorem movedIn_movedIn (s : State) (p : Port) (r : Completion) (rest moved left : List Completion) :
    (s.movedIn p [r] rest).movedIn p moved left = s.movedIn p (r :: moved) left := by
  have htable : (s.movedIn p [r] rest).table.filter
        (fun e => !(e.port == p && moved.any fun x => x.tag == e.order.tag)) =
      s.table.filter fun e => !(e.port == p && (r :: moved).any fun x => x.tag == e.order.tag) := by
    simp only [State.movedIn, State.modPort_table, List.filter_filter, List.any_cons, List.any_nil, Bool.or_false]
    refine List.filter_congr fun e _ => ?_
    cases e.port == p <;> cases r.tag == e.order.tag <;> simp
  conv_lhs => rw [State.movedIn]
  rw [htable]
  simp only [State.movedIn, State.modPort, PerPort.get_set_self, PerPort.set_set, List.append_assoc,
    List.singleton_append]

/-- The entry of a record that moves in is freed, and nothing is taken from an empty ring (R97). -/
theorem moveHeld_one {s : State} {p : Port} {r : Completion} {rest : List Completion}
    (hring : (s.port p).ring.slots = []) :
    ((s.modPort p fun ps => { ps with completions := ps.completions ++ [r], held := rest }).freeEntry p
        r.tag).doAll true [.takes p] = s.movedIn p [r] rest := by
  rw [doAll_takes_of_empty (by simpa using hring), doAll_nil]
  have htable : s.table.filter (fun e => !e.is p r.tag) =
      s.table.filter fun e => !(e.port == p && [r].any fun x => x.tag == e.order.tag) :=
    List.filter_congr fun e _ => by
      simp [Entry.is, BEq.comm (a := r.tag)]
  simp only [State.movedIn, ← htable]
  rfl

/-- With nothing in the ring, held records move into the queue while there is room, oldest first (R97). -/
theorem moveHeld_of_empty_ring {p : Port} (n : Nat) :
    ∀ s : State, (s.port p).ring.slots = [] → n = 32 - (s.port p).completions.length →
      moveHeld p n s = s.movedIn p ((s.port p).held.take n) ((s.port p).held.drop n) := by
  induction n with
  | zero => exact fun s _ _ => (movedIn_nil s p).symm
  | succ n ih =>
    intro s hring hn
    cases hheld : (s.port p).held with
    | nil =>
      have hnone := movedIn_nil s p
      rw [hheld] at hnone
      rw [moveHeld_of_none hheld, List.take_nil, List.drop_nil, hnone]
    | cons r rest =>
      have hroom : (s.port p).completions.length < Config.completionSize := by
        show _ < 32
        omega
      have hport := port_movedIn s p [r] rest
      simp only [moveHeld, hheld, if_pos hroom, moveHeld_one hring]
      rw [ih _ (by rw [hport]; exact hring) (by rw [hport, List.length_append]; simp only [List.length_singleton]; omega),
        hport, movedIn_movedIn]
      rfl

/-- The state in which up to 4 records have been read out of a port's completion queue (R99). -/
def State.readOut (s : State) (p : Port) : State :=
  s.modPort p fun ps => { ps with completions := ps.completions.drop 4 }

theorem port_readOut (s : State) (p : Port) :
    (s.readOut p).port p = { s.port p with completions := (s.port p).completions.drop 4 } :=
  State.port_modPort_self s p _

/-- READ COMPLETIONS, by what moves into the queue after the records are read out (R97, R99). -/
theorem exec_readCompletions {s t : State} {p : Port} (hs : s.ready p)
    (hmoved : moveHeld p (32 - ((s.port p).completions.drop 4).length) (s.readOut p) = t) :
    exec (.readCompletions p) s = .next (t.answered p .ok
      ([byte (min 4 (s.port p).completions.length), byte (t.port p).completions.length, byte (t.port p).held.length]
        ++ ((s.port p).completions.take 4).flatMap Completion.bytes)) := by
  have hanswer : answerReadCompletions p s =
      let u := moveHeld p (32 - ((s.readOut p).port p).completions.length) (s.readOut p)
      ⟨.ok,
        [byte ((s.port p).completions.take 4).length, byte (u.port p).completions.length,
          byte (u.port p).held.length] ++ ((s.port p).completions.take 4).flatMap Completion.bytes, u⟩ := rfl
  have hexec := exec_row_of_ready hs .readCompletions
  rw [port_readOut, hmoved, List.length_take] at hanswer
  rw [Command.answer, hanswer] at hexec
  exact hexec

/-- Settles O34: after the records are read out the held ones move in as `moveHeld_of_none` and
`moveHeld_of_empty_ring` say. -/
theorem completionAndRingReads : Obligations.CompletionAndRingReads := by
  intro s p hs ps
  have hport := port_readOut s p
  refine ⟨fun hheld => ?_, fun hring => ?_, exec_row_of_ready hs .readRing⟩
  · have hexec := exec_readCompletions hs (moveHeld_of_none (by rw [hport]; exact hheld) _)
    simp only [hport, List.length_drop] at hexec
    simp only [show (s.port p).held = [] from hheld] at hexec
    exact hexec
  · intro kept moved rest
    have hmoved := moveHeld_of_empty_ring (p := p) _ (s.readOut p) (by rw [hport]; exact hring) rfl
    have hmoved' : moveHeld p (32 - kept.length) (s.readOut p) = (s.readOut p).movedIn p moved rest := by
      rw [hport] at hmoved
      exact hmoved
    have hexec := exec_readCompletions hs hmoved'
    have hstate : (s.readOut p).movedIn p moved rest =
        { s with
          table := s.table.filter fun e => !(e.port == p && moved.any fun r => r.tag == e.order.tag) }.modPort p
            fun ps => { ps with completions := kept ++ moved, held := rest } := by
      simp only [State.movedIn, State.readOut, State.modPort, PerPort.get_set_self, PerPort.set_set]
      rfl
    rw [port_movedIn, hport, hstate] at hexec
    exact hexec

end Sys2Proof.Machine

/-!
SUPPORT. The cancellation of an order: how it leaves the queue it waits in, what it makes of the front behind it, and
the early end of a HOLD's pulse.
-/

namespace Sys2Proof.Machine

/-! ## The answer -/

/-- The place of a waiting order, in which a cancellation ends it (R105). -/
def Stage.waits : Stage → Bool
  | .following _ => true
  | .scheduled _ => true
  | .queued => true
  | .running => false
  | .doneHeld => false

section Answer

variable {s : State} {p : Port} {tag : Byte}

/-- An order in the ring is marked; a mark that stands is kept (R78, R104). -/
theorem answerCancelOrder_of_ring (hring : ((s.port p).ring.slots.any fun slot => slot.order.tag == tag) = true) :
    answerCancelOrder p tag s =
      ⟨.ok, [], s.modPort p fun ps =>
        { ps with
          ring :=
            { ps.ring with
              slots := ps.ring.slots.map fun slot =>
                if slot.order.tag = tag then { slot with mark := slot.mark.or (some .cancelled) } else slot } }⟩ := by
  have hcancel : Slot.cancel tag = fun slot =>
      if slot.order.tag = tag then { slot with mark := slot.mark.or (some .cancelled) } else slot :=
    funext fun slot => by simp only [Slot.cancel, beq_iff_eq]
  rw [answerCancelOrder, if_pos hring, hcancel]

variable (hring : ((s.port p).ring.slots.any fun slot => slot.order.tag == tag) = false)
include hring

theorem answerCancelOrder_of_absent (hlive : s.liveEntry p tag = none) :
    answerCancelOrder p tag s = .refuse .notFound s := by
  simp only [answerCancelOrder, hring, hlive, Bool.false_eq_true, if_false]

variable {e : Entry} (hlive : s.liveEntry p tag = some e)
include hlive

theorem answerCancelOrder_of_running (hstage : e.stage = .running) :
    answerCancelOrder p tag s = s.cancelRunning e := by
  simp only [answerCancelOrder, hring, hlive, hstage, Bool.false_eq_true, if_false]

theorem answerCancelOrder_of_waits (hstage : e.stage.waits = true) :
    answerCancelOrder p tag s = ⟨.ok, [], s.doAll true [.finish p tag .cancelled]⟩ := by
  cases h : e.stage with
  | following n => simp only [answerCancelOrder, hring, hlive, h, Bool.false_eq_true, if_false]
  | scheduled n => simp only [answerCancelOrder, hring, hlive, h, Bool.false_eq_true, if_false]
  | queued => simp only [answerCancelOrder, hring, hlive, h, Bool.false_eq_true, if_false]
  | running => rw [h] at hstage; cases hstage
  | doneHeld => rw [h] at hstage; cases hstage

end Answer

/-! ## The pulse of a HOLD -/

/-- The end of a live pulse of a PULSE or HOLD order, with no member listed and a recycle to come: the pulse recycles
without an owner and the order ends (R15, R87). -/
theorem endPulse_of_order {s : State} {c : Chan} {pu : Pulse} {p : Port} {tag : Byte} {e : Entry}
    (hpu : (s.chan c).pulse = some pu) (howner : pu.owner = .order p tag) (howned : pu.owned = true)
    (hrecycle : 0 < pu.recycleLength) (hlist : s.arbiter.list = []) (hentry : s.entry p tag = some e)
    (hkind : e.order.kind ≠ .train) (cause : Cause) :
    s.endPulse c cause none = (s.pulseEnded c p tag cause).doAll true [.finish p tag cause.status] := by
  obtain ⟨pu', hpu', howned', howner'⟩ := pulse_stopPulse hpu none
  have hentry' : (s.stopPulse c none).entry p tag = some e := hentry
  have hlist' : (s.stopPulse c none).arbiter.list = [] := hlist
  have htell : (s.stopPulse c none).tellPulseEnd c cause =
      ([.finish p tag cause.status], s.pulseEnded c p tag cause) := by
    simp only [State.tellPulseEnd, hpu', howned'.trans howned, howner'.trans howner, if_true]
    simp [State.isTrain, hentry', hkind, State.pulseEnded]
  simp only [State.endPulse, hpu, Option.map_some, Option.getD_some, examineIf_of_nil hlist', htell,
    if_neg (Nat.pos_iff_ne_zero.mp hrecycle)]

/-- The record of a pulse that recycles without an owner and with no fault latched at its end (R27, R28, R87). -/
theorem Pulse.stopped_unowned (pu : Pulse) (now : Nat) :
    { pu.stopped now none with owned := false } =
      { pu with
        owned := false
        openCheck := if pu.openCheck = OpenCheck.pending then OpenCheck.none else pu.openCheck
        foldAt := none
        recycleAt := some (now + pu.recycleLength) } := by
  simp [Pulse.stopped]

/-- The pulse of an order that has ended, as a write of its channel, the units in use and its entry (R15, R27, R57). -/
theorem pulseEnded_eq {s : State} {c : Chan} {pu : Pulse} (hpu : (s.chan c).pulse = some pu) (p : Port) (tag : Byte)
    (cause : Cause) :
    s.pulseEnded c p tag cause =
      ((s.withUnits (s.arbiter.units - (s.chan c).draw)).modChan c fun ch =>
        { ch.updateHeat s.now with
          phase := .recycle
          pulse := some { pu.stopped s.now none with owned := false } }).modEntry p tag fun e =>
            { e with lastCause := some cause } := by
  have hcomm : s.pulseEnded c p tag cause =
      ((s.stopPulse c none).modPulse c fun pu => { pu with owned := false }).modEntry p tag fun e =>
        { e with lastCause := some cause } := rfl
  rw [hcomm, stopPulse_eq hpu, State.modPulse, State.modChan_modChan]
  rfl

/-! ## An order that waits in a queue -/

theorem filter_owner_of_split {before behind : List QueueMember} {q : QueueMember} {o : Owner} (howner : q.owner = o)
    (hothers : ∀ x ∈ before ++ behind, x.owner ≠ o) :
    (before ++ q :: behind).filter (fun x => x.owner != o) = before ++ behind := by
  have hself : (q.owner != o) = false := by simp [howner]
  have hkeep : ∀ l : List QueueMember, (∀ x ∈ l, x ∈ before ++ behind) → l.filter (fun x => x.owner != o) = l :=
    fun l hl => List.filter_eq_self.mpr fun x hx => bne_iff_ne.mpr (hothers x (hl x hx))
  rw [List.filter_append, List.filter_cons, hself, hkeep before fun x hx => List.mem_append_left _ hx,
    hkeep behind fun x hx => List.mem_append_right _ hx]
  rfl

/-- A member that another stands ahead of, or at a channel that is not IDLE, is no testing front (R33). -/
theorem isTestingFront_of_split {ch : Channel} {before behind : List QueueMember} {q : QueueMember} {o : Owner}
    (hqueue : ch.queue = before ++ q :: behind) (hothers : ∀ x ∈ before ++ behind, x.owner ≠ o)
    (hplace : ch.phase ≠ .idle ∨ before ≠ []) : ch.isTestingFront o = false := by
  rcases hplace with hphase | hbefore
  · exact isTestingFront_of_out hphase o
  · cases before with
    | nil => exact absurd rfl hbefore
    | cons x before =>
      have hx : x.owner ≠ o := hothers x (by simp)
      simp [Channel.isTestingFront, hqueue, hx]

/-- A testing front leaves its queue and the admission list, with nothing granted (R34, R61). -/
theorem leaveQueue_of_quiet_front {s : State} {c : Chan} {o : Owner} (hfront : (s.chan c).isTestingFront o = true)
    (hquiet : s.control.rail ≠ .on ∨ s.arbiter.list.filter (fun m => m.channel ≠ c) = []) :
    s.leaveQueue true c o = (s.modChan c (·.frontLeft o)).unlisted c := by
  simp only [State.leaveQueue, hfront, if_true]
  exact depart_of_quiet (s := s.modChan c (·.frontLeft o)) hquiet

/-- The end of an order that none follows: it leaves its queue, and if it was the testing front the next member is
offered (R90). -/
theorem doAll_finish_leaves {s t : State} {p : Port} {tag : Byte} {e : Entry} (hlive : s.liveEntry p tag = some e)
    (hleave : s.leaveQueue true e.order.channel (.order p tag) = t)
    (hfollow : ∀ g ∈ t.table, g.follows p tag = false) (status : EndStatus) :
    s.doAll true [.finish p tag status] =
      (t.conclude e status).doAll true
        ((if (s.chan e.order.channel).isTestingFront (.order p tag) then [.offer [e.order.channel]] else [])
          ++ [.takes p]) := by
  have hfollow' : ∀ g ∈ (t.conclude e status).table, g.follows p tag = false := fun g hg =>
    Bool.eq_false_iff.mpr fun h => by simp [hfollow g (mem_of_follows_conclude hg h)] at h
  have hrun : Work.run true (.finish p tag status) s =
      ⟨if (s.chan e.order.channel).isTestingFront (.order p tag) then [.offer [e.order.channel]] else [], [.takes p],
        t.conclude e status⟩ := by
    simp only [Work.run, finish, hlive, hleave, followerWork_of_none hfollow', List.nil_append]
  rw [doAll_cons, hrun, List.append_nil]

/-! ## The front behind -/

/-- The end of an order keeps the kick that any other owner asks for. -/
theorem kickShape_conclude {s : State} {e : Entry} {o : Owner} (ho : o ≠ .order e.port e.order.tag)
    (status : EndStatus) : (s.conclude e status).kickShape o = s.kickShape o := by
  cases o with
  | reflex x =>
    exact congrArg (fun v : Vector Reflex 16 => v[x].kickShape) (conclude_rest s e status).2.1
  | order p tag =>
    have hne : ∀ g : Entry, g.is p tag = true → g.is e.port e.order.tag = false := fun g hg =>
      Bool.eq_false_iff.mpr fun h => ho (by
        rw [← (Entry.is_iff.mp hg).1, ← (Entry.is_iff.mp hg).2, (Entry.is_iff.mp h).1, (Entry.is_iff.mp h).2])
    rcases conclude_table s e status with ht | ht
    · have hentry : (s.conclude e status).entry p tag = s.entry p tag := by
        rw [State.entry, ht, State.freeEntry, List.find?_filter]
        refine congrArg (List.find? · s.table) (funext fun g => ?_)
        cases hg : g.is p tag
        · simp
        · simp [hne g hg]
      rw [State.kickShape, hentry]
      rfl
    · have hentry : (s.conclude e status).entry p tag =
          (s.modEntry e.port e.order.tag fun e => { e with stage := .doneHeld }).entry p tag := by
        rw [State.entry, ht, State.entry]
      rw [State.kickShape, hentry, entry_modEntry (f := fun e => { e with stage := .doneHeld }) fun _ => ⟨rfl, rfl⟩,
        Option.map_map]
      refine congrArg (Option.getD · _) (Option.map_congr fun g _ => ?_)
      simp only [Function.comp_apply]
      split <;> rfl

section Offered

variable {u : State} {c : Chan} {x : QueueMember} {rest : List QueueMember} {p : Port}

/-- What an offered front that is not too large does while the rail is not ON: it joins the admission list or waits
for its cooling (R33, R46, R47, R60). -/
theorem offered_of_railOff (hphase : (u.chan c).phase = .idle) (hfront : (u.chan c).front = .channelWait)
    (hqueue : (u.chan c).queue = x :: rest) (hsize : u.sizeOk c x.owner = true) (hrail : u.control.rail ≠ .on)
    (hring : (u.port p).ring.slots = []) :
    let pr := (u.chan c).profile
    let heat := (u.chan c).heatNow u.now
    let length := pr.kickLength (u.kickShape x.owner).fraction
    let t := u.doAll true [.offer [c], .takes p]
    (t.chan c).queue = x :: rest
      ∧ (t.chan c).front =
        (if pr.kickFits heat length then .admission else .heatWait (u.now + pr.coolingWait heat length))
      ∧ t.arbiter.list =
        (if pr.kickFits heat length then
          insertMember ⟨c, x.owner, x.priority, pr.kickDraw, u.arbiter.joins⟩ u.arbiter.list
        else u.arbiter.list)
      ∧ ∀ tag, u.liveEntry p tag = none → t.liveEntry p tag = none := by
  intro pr heat length t
  have ht : (u.kickTest true c).ports = u.ports → t = u.kickTest true c := fun hports => by
    have hring' : ((u.kickTest true c).port p).ring.slots = [] := by rw [State.port, hports]; exact hring
    exact (doAll_offer_of_sizeOk hphase hfront hqueue hsize true _).trans
      ((doAll_takes_of_empty hring' true []).trans (doAll_nil ..))
  have hlives : ∀ tag, u.liveEntry p tag = none → (u.kickTest true c).liveEntry p tag = none := fun tag hnone => by
    have hsome := (noMore_kickTest u true c).liveEntry p tag
    rw [hnone] at hsome
    simpa using hsome
  cases hfits : pr.kickFits heat length with
  | true =>
    have hjoins : u.kickTest true c = ((u.updateHeat c).joined c x).tellRailWait x.owner := by
      rw [kickTest_of_fits hqueue hfits, join_of_railOff (s := u.updateHeat c) hrail]
    have harbiter : (u.kickTest true c).arbiter = ((u.updateHeat c).joined c x).arbiter := by
      rw [hjoins]; cases x.owner <;> rfl
    have hchan : (u.updateHeat c).chan c = (u.chan c).updateHeat u.now := State.chan_modChan_self ..
    rw [ht (by rw [hjoins]; cases x.owner <;> rfl)]
    refine ⟨?_, ?_, ?_, hlives⟩
    · rw [hjoins, chan_tellRailWait, chan_joined, hchan]; exact hqueue
    · rw [hjoins, chan_tellRailWait, chan_joined]; rfl
    · rw [harbiter]
      show insertMember ((u.updateHeat c).memberOf c x) u.arbiter.list = _
      rw [State.memberOf, hchan]
      rfl
  | false =>
    have hwaits := kickTest_of_unfit hqueue hfits true
    rw [ht (by rw [hwaits]; cases x.owner <;> rfl)]
    refine ⟨?_, ?_, ?_, hlives⟩
    · rw [hwaits, chan_tellHeatWait, State.chan_modChan_self]; exact hqueue
    · rw [hwaits, chan_tellHeatWait, State.chan_modChan_self]; rfl
    · rw [hwaits, arbiter_tellHeatWait]; rfl

end Offered

end Sys2Proof.Machine

/-!
CANCEL ORDER.
-/

namespace Sys2Proof.Machine

section Cancel

variable {s : State} {p : Port} {tag : Byte} {e : Entry}

/-- CANCEL ORDER of a running HOLD in HOLD or FOLD (R106): its pulse ends and the order ends RELEASED. -/
theorem cancelRunning_of_held {pu : Pulse} (hlive : s.liveEntry p tag = some e) (hkind : e.order.kind = .hold)
    (hphase : (s.chan e.order.channel).phase = .hold ∨ (s.chan e.order.channel).phase = .fold)
    (hpu : (s.chan e.order.channel).pulse = some pu) (howner : pu.owner = .order p tag) (howned : pu.owned = true)
    (hrecycle : 0 < pu.recycleLength) (hentry : s.entry p tag = some e)
    (hqueue : ∀ q ∈ (s.chan e.order.channel).queue, q.owner ≠ .order p tag) (hlist : s.arbiter.list = [])
    (hring : (s.port p).ring.slots = []) (hfollow : ∀ f ∈ s.table, f.follows p tag = false) :
    s.cancelRunning e =
      ⟨.ok, [], (s.pulseEnded e.order.channel p tag .release).conclude e .released⟩ := by
  let c := e.order.channel
  let e1 : Entry := { e with lastCause := some .release }
  have hcancel : s.cancelRunning e = ⟨.ok, [], s.endPulse c .release none⟩ := by
    rcases hphase with hphase | hphase <;> simp only [State.cancelRunning, hkind, hphase] <;> rfl
  have hended := endPulse_of_order hpu howner howned hrecycle hlist hentry (by rw [hkind]; decide) .release
  have hlive1 : (s.pulseEnded c p tag .release).liveEntry p tag = some e1 := by
    have hmod := liveEntry_modEntry (s := s) (q := p) (t := tag)
      (f := fun e => { e with lastCause := some .release }) (fun _ => ⟨rfl, rfl, rfl⟩) p tag
    rw [hlive, Option.map_some, if_pos (Entry.is_iff.mpr (liveEntry_is hlive))] at hmod
    exact hmod
  have hfollow1 : ∀ f ∈ (s.pulseEnded c p tag .release).table, f.follows p tag = false := fun f hf => by
    obtain ⟨g, hg, rfl⟩ := List.mem_map.mp (show f ∈ (s.modEntry p tag fun e =>
      { e with lastCause := some .release }).table from hf)
    have hkept := hfollow g hg
    split
    · exact hkept
    · exact hkept
  have hfinish := doAll_finish_of_live hlive1
    (by rw [(chan_pulseEnded s c e1.order.channel p tag .release).1]; exact hqueue) hfollow1 hring .released true
  rw [hcancel, hended]
  exact congrArg (Answer.mk .ok []) hfinish

variable {before behind : List QueueMember} {q : QueueMember} (hlive : s.liveEntry p tag = some e)
  (howner : q.owner = .order p tag) (hqueue : (s.chan e.order.channel).queue = before ++ q :: behind)
  (hothers : ∀ x ∈ before ++ behind, x.owner ≠ .order p tag) (hring : (s.port p).ring.slots = [])
  (hfollow : ∀ f ∈ s.table, f.follows p tag = false)
include hlive howner hqueue hothers hring hfollow

/-- The end of an order that waits in CHANNEL_WAIT: it leaves its queue (R34, R105). -/
theorem doAll_finish_of_channelWait (hplace : (s.chan e.order.channel).phase ≠ .idle ∨ before ≠ [])
    (status : EndStatus) :
    s.doAll true [.finish p tag status] =
      (s.modChan e.order.channel fun ch => { ch with queue := before ++ behind }).conclude e status := by
  obtain ⟨hport, -⟩ := liveEntry_is hlive
  have hfront := isTestingFront_of_split hqueue hothers hplace
  have hleave : s.leaveQueue true e.order.channel (.order p tag) =
      s.modChan e.order.channel fun ch => { ch with queue := before ++ behind } := by
    simp only [State.leaveQueue, hfront, Bool.false_eq_true, if_false]
    exact State.modChan_congr (by rw [hqueue, filter_owner_of_split howner hothers])
  rw [doAll_finish_leaves hlive hleave hfollow, hfront, if_neg Bool.false_ne_true, List.nil_append,
    doAll_takes_of_empty (by rw [conclude_rings]; exact hring), doAll_nil]

end Cancel

/-- The state in which the testing front of a channel has left its queue and the admission list (R34, R61). -/
def State.frontGone (s : State) (c : Chan) (behind : List QueueMember) : State :=
  { s with arbiter := { s.arbiter with list := s.arbiter.list.filter fun m => m.channel ≠ c } }.modChan c fun ch =>
    { ch with queue := behind, front := .channelWait }

theorem chan_frontGone (s : State) (c : Chan) (behind : List QueueMember) :
    (s.frontGone c behind).chan c = { s.chan c with queue := behind, front := .channelWait } :=
  State.chan_modChan_self { s with
    arbiter := { s.arbiter with list := s.arbiter.list.filter fun m => m.channel ≠ c } } c _

section Front

variable {s : State} {p : Port} {tag : Byte} {e : Entry} {behind : List QueueMember} {q : QueueMember}
  (hlive : s.liveEntry p tag = some e) (howner : q.owner = .order p tag)
  (hqueue : (s.chan e.order.channel).queue = q :: behind) (hothers : ∀ x ∈ behind, x.owner ≠ .order p tag)
  (hring : (s.port p).ring.slots = []) (hfollow : ∀ f ∈ s.table, f.follows p tag = false)
  (hphase : (s.chan e.order.channel).phase = .idle)
  (hquiet : s.control.rail ≠ .on ∨ s.arbiter.list.filter (fun m => m.channel ≠ e.order.channel) = [])
include hlive howner hqueue hothers hfollow hphase hquiet

/-- The end of an order that is the testing front: it leaves its queue and the list, and the next member is offered
(R34, R61, R105). -/
theorem doAll_finish_of_front (status : EndStatus) :
    s.doAll true [.finish p tag status] =
      ((s.frontGone e.order.channel behind).conclude e status).doAll true [.offer [e.order.channel], .takes p] := by
  let c := e.order.channel
  have hfront : (s.chan c).isTestingFront (.order p tag) = true := by
    simp [Channel.isTestingFront, c, hphase, hqueue, howner]
  have hleave : s.leaveQueue true c (.order p tag) = s.frontGone c behind := by
    rw [leaveQueue_of_quiet_front hfront hquiet]
    have hlist : s.arbiter.list.filter (fun m => m.channel != c) = s.arbiter.list.filter fun m => m.channel ≠ c :=
      List.filter_congr fun m _ => by rw [Bool.eq_iff_iff]; simp
    have hunlisted : (s.modChan c (·.frontLeft (.order p tag))).unlisted c =
        { s with arbiter := { s.arbiter with list := s.arbiter.list.filter fun m => m.channel != c } }.modChan c
          (·.frontLeft (.order p tag)) := rfl
    rw [hunlisted, hlist]
    have hleft : (s.chan c).frontLeft (.order p tag) = { s.chan c with queue := behind, front := .channelWait } := by
      rw [Channel.frontLeft, hqueue]
      exact congrArg (fun l => { s.chan c with queue := l, front := .channelWait })
        (filter_owner_of_split (before := []) howner hothers)
    exact State.modChan_congr hleft
  rw [doAll_finish_leaves hlive hleave hfollow, hfront, if_pos rfl]
  rfl

include hring

/-- The queue is empty behind it. -/
theorem doAll_finish_of_last (hempty : behind = []) (status : EndStatus) :
    s.doAll true [.finish p tag status] = (s.frontGone e.order.channel behind).conclude e status := by
  have hnone : ∀ d ∈ [e.order.channel], ((s.frontGone e.order.channel behind).conclude e status).awaitsOffer d = false := by
    intro d hd
    rw [List.mem_singleton.mp hd]
    exact awaitsOffer_of_empty (by rw [conclude_chan, chan_frontGone, hempty])
  rw [doAll_finish_of_front hlive howner hqueue hothers hfollow hphase hquiet, doAll_offer_of_none hnone,
    doAll_takes_of_empty (by rw [conclude_rings]; exact hring), doAll_nil]

/-- A member behind it that is not too large is offered while the rail is not ON (R33, R34). -/
theorem finish_offers_next {x : QueueMember} {rest : List QueueMember} (hbehind : behind = x :: rest)
    (hsize : s.sizeOk e.order.channel x.owner = true) (hrail : s.control.rail ≠ .on) (status : EndStatus) :
    let c := e.order.channel
    let pr := (s.chan c).profile
    let heat := (s.chan c).heatNow s.now
    let length := pr.kickLength (s.kickShape x.owner).fraction
    let t := s.doAll true [.finish p tag status]
    (t.chan c).queue = x :: rest
      ∧ (t.chan c).front =
        (if pr.kickFits heat length then .admission else .heatWait (s.now + pr.coolingWait heat length))
      ∧ t.arbiter.list =
        (if pr.kickFits heat length then
          insertMember ⟨c, x.owner, x.priority, pr.kickDraw, s.arbiter.joins⟩ (s.frontGone c behind).arbiter.list
        else (s.frontGone c behind).arbiter.list)
      ∧ t.liveEntry p tag = none := by
  intro c pr heat length t
  let u := (s.frontGone c behind).conclude e status
  obtain ⟨hport, htag⟩ := liveEntry_is hlive
  have hchan : u.chan c = { s.chan c with queue := behind, front := .channelWait } := by
    rw [conclude_chan, chan_frontGone]
  have harbiter : u.arbiter = (s.frontGone c behind).arbiter := (conclude_rest _ e status).2.2
  have hshape : u.kickShape x.owner = s.kickShape x.owner := by
    refine (kickShape_conclude ?_ status).trans (by cases x.owner <;> rfl)
    rw [hport, htag]
    exact hothers x (by rw [hbehind]; exact List.mem_cons_self ..)
  obtain ⟨hq, hf, hl, hlives⟩ := offered_of_railOff (u := u) (c := c) (x := x) (rest := rest) (p := p)
    (by rw [hchan]; exact hphase) (by rw [hchan]) (by rw [hchan]; exact hbehind)
    (by rw [State.sizeOk, hchan, harbiter]; exact hsize)
    (by
      obtain ⟨f, l, h, -⟩ := conclude_shape (s.frontGone c behind) e status
      show ((s.frontGone c behind).conclude e status).control.rail ≠ .on
      rw [h]
      exact hrail)
    (by rw [conclude_rings]; exact hring)
  have ht : t = u.doAll true [.offer [c], .takes p] :=
    doAll_finish_of_front hlive howner hqueue hothers hfollow hphase hquiet status
  rw [hshape, hchan, harbiter, conclude_now] at hl
  rw [hshape, hchan, conclude_now] at hf
  rw [ht]
  refine ⟨hq, hf, hl, hlives tag ?_⟩
  rw [liveEntry_conclude, if_pos (Entry.is_iff.mpr ⟨hport, htag⟩)]

end Front

/-- Settles O33: the answer is by place (`answerCancelOrder_of_ring` to `answerCancelOrder_of_waits`); a waiting order
leaves its queue and ends (`doAll_finish_of_live`, `doAll_finish_of_channelWait`), and behind the testing front the next
member is offered (`doAll_finish_of_last`, `finish_offers_next`). -/
theorem cancelOrderByPlace : Obligations.CancelOrderByPlace := by
  intro s p tag hs inRing
  have hexec : ∀ {status body t}, answerCancelOrder p tag s = ⟨status, body, t⟩ →
      exec (.cancelOrder p tag) s = .next (t.answered p status body) := fun {status body t} h => by
    have hrow := exec_row_of_ready hs (.cancelOrder tag)
    rw [Command.answer, h] at hrow
    exact hrow
  refine ⟨fun hring => hexec (answerCancelOrder_of_ring hring),
    fun hring hlive => hexec (answerCancelOrder_of_absent hring hlive), ?_, ?_⟩
  · intro e hring hlive c
    obtain ⟨hport, htag⟩ := liveEntry_is hlive
    refine ⟨fun hstage hkind => hexec ?_, fun hstage hkind => hexec ?_, fun hstage hkind hphase => hexec ?_⟩
    · rw [answerCancelOrder_of_running hring hlive hstage, State.cancelRunning, hkind]
      rfl
    · rw [answerCancelOrder_of_running hring hlive hstage, State.cancelRunning, hkind, ← hport, ← htag]
    · have hkick : (s.chan e.order.channel).phase = .kick := hphase
      simp only [answerCancelOrder_of_running hring hlive hstage, State.cancelRunning, hkind, hkick]
      rfl
  · intro e hring hlive hempty hfollow c own
    refine ⟨?_, ?_, ?_⟩
    · intro pu hstage hkind hphase hpu howner howned hrecycle hentry hqueue hlist
      have hheld := cancelRunning_of_held hlive hkind hphase hpu howner howned hrecycle hentry hqueue hlist hempty hfollow
      rw [pulseEnded_eq hpu, Pulse.stopped_unowned] at hheld
      exact hexec ((answerCancelOrder_of_running hring hlive hstage).trans hheld)
    · intro hstage hqueue
      have hwaits : e.stage.waits = true := by rcases hstage with ⟨n, hn⟩ | ⟨n, hn⟩ <;> rw [hn] <;> rfl
      refine hexec ?_
      rw [answerCancelOrder_of_waits hring hlive hwaits, doAll_finish_of_live hlive hqueue hfollow hempty]
    · intro before behind q hstage howner hqueue hothers left
      have hanswer := answerCancelOrder_of_waits hring hlive (by rw [hstage]; rfl)
      refine ⟨fun hplace => hexec ?_, fun hphase hbefore => ?_⟩
      · rw [hanswer, doAll_finish_of_channelWait hlive howner hqueue hothers hempty hfollow hplace]
      · subst hbefore
        intro gone hquiet
        have hgone : gone = s.frontGone c behind := State.modChan_modChan
          { s with arbiter := { s.arbiter with list := s.arbiter.list.filter fun m => m.channel ≠ c } } c
          (fun ch => { ch with queue := behind }) fun ch => { ch with front := .channelWait }
        rw [hgone] at hquiet ⊢
        refine ⟨fun hlast => hexec ?_, fun x rest hbehind hsize hrail => ?_⟩
        · rw [hanswer, doAll_finish_of_last hlive howner hqueue hothers hempty hfollow hphase hquiet hlast]
        · exact ⟨_, hexec hanswer, finish_offers_next hlive howner hqueue hothers hempty hfollow hphase hquiet
            hbehind hsize hrail .cancelled⟩

end Sys2Proof.Machine

/-!
SUPPORT. What a change of mode leaves of a channel and of an owner that is done with it: nothing of what the change does
after the ends of the orders wakes a recycle without an owner, or brings an owner back into a queue.
-/

namespace Sys2Proof.Machine

/-! ## A channel that is done with, and an owner that is gone -/

/-- An owner has no member in a channel's queue, and none of that channel in the admission list. -/
def State.Absent (s : State) (c : Chan) (o : Owner) : Prop :=
  (∀ q ∈ (s.chan c).queue, q.owner ≠ o) ∧ ∀ m ∈ s.arbiter.list, m.channel = c → m.owner ≠ o

/-- A state in which a channel's recycle without an owner runs on as in another, and an owner that was absent there is
absent still. -/
structure State.Keeps (c : Chan) (o : Owner) (t s : State) : Prop where
  recycle : ∀ pu, (s.chan c).phase = .recycle → (s.chan c).pulse = some pu → pu.owned = false →
    (t.chan c).phase = .recycle ∧ (t.chan c).pulse = some pu
  absent : s.Absent c o → t.Absent c o

/-- Such a state with the same port records, and the same entries by port, tag and life. -/
structure State.Passes (c : Chan) (o : Owner) (t s : State) : Prop extends State.Keeps c o t s where
  ports : t.ports = s.ports
  keys : t.table.map Entry.key = s.table.map Entry.key

section Passes

variable {c : Chan} {o : Owner}

theorem State.Keeps.refl (s : State) : s.Keeps c o s := ⟨fun _ hphase hpu _ => ⟨hphase, hpu⟩, id⟩

theorem State.Keeps.trans {r s t : State} (h : t.Keeps c o s) (h' : s.Keeps c o r) : t.Keeps c o r where
  recycle pu hphase hpu howned := by
    obtain ⟨hphase', hpu'⟩ := h'.recycle pu hphase hpu howned
    exact h.recycle pu hphase' hpu' howned
  absent hr := h.absent (h'.absent hr)

theorem State.Passes.refl (s : State) : s.Passes c o s := { State.Keeps.refl s with ports := rfl, keys := rfl }

theorem State.Passes.trans {r s t : State} (h : t.Passes c o s) (h' : s.Passes c o r) : t.Passes c o r :=
  { h.toKeeps.trans h'.toKeeps with ports := h.ports.trans h'.ports, keys := h.keys.trans h'.keys }

/-- A state with the same channel and no new member of it in the admission list. -/
theorem keeps_of_chan {s t : State} (hchan : t.chan c = s.chan c)
    (hlist : ∀ m ∈ t.arbiter.list, m ∈ s.arbiter.list) : t.Keeps c o s where
  recycle pu hphase hpu _ := by rw [hchan]; exact ⟨hphase, hpu⟩
  absent h := ⟨by rw [hchan]; exact h.1, fun m hm => h.2 m (hlist m hm)⟩

theorem conclude_keeps (s : State) (e : Entry) (status : EndStatus) : (s.conclude e status).Keeps c o s :=
  keeps_of_chan (conclude_chan s e status c) (by rw [(conclude_rest s e status).2.2]; exact fun _ hm => hm)

variable {s : State} {d : Chan}

/-- A write of a channel that leaves its phase, a pulse without an owner and, but for other owners, its queue. -/
theorem passes_modChan {f : Channel → Channel} (hphase : (f (s.chan d)).phase = (s.chan d).phase)
    (hpulse : ∀ pu, (s.chan d).pulse = some pu → pu.owned = false → (f (s.chan d)).pulse = some pu)
    (hqueue : ∀ q ∈ (f (s.chan d)).queue, q.owner = o → q ∈ (s.chan d).queue) : (s.modChan d f).Passes c o s where
  recycle pu hrecycle hpu howned := by
    rw [State.chan_modChan]
    split
    · rename_i hd
      subst hd
      exact ⟨hphase.trans hrecycle, hpulse pu hpu howned⟩
    · exact ⟨hrecycle, hpu⟩
  absent h := by
    refine ⟨fun q hq => ?_, h.2⟩
    rw [State.chan_modChan] at hq
    split at hq
    · rename_i hd
      subst hd
      exact fun ho => h.1 q (hqueue q hq ho) ho
    · exact h.1 q hq
  ports := rfl
  keys := rfl

/-- A note on a channel that leaves its phase, pulse and queue. -/
theorem passes_note (d : Chan) {f : Channel → Channel}
    (hf : ∀ ch, (f ch).phase = ch.phase ∧ (f ch).pulse = ch.pulse ∧ (f ch).queue = ch.queue := by
      exact fun _ => ⟨rfl, rfl, rfl⟩) : (s.modChan d f).Passes c o s := by
  obtain ⟨hphase, hpulse, hqueue⟩ := hf (s.chan d)
  exact passes_modChan hphase (fun pu hpu _ => hpulse.trans hpu) fun q hq _ => hqueue ▸ hq

/-- A pulse may lose its owner. -/
theorem passes_modPulse (d : Chan) {f : Pulse → Pulse} (hf : ∀ pu, pu.owned = false → f pu = pu) :
    (s.modPulse d f).Passes c o s :=
  passes_modChan rfl (fun pu hpu howned => by simp [hpu, hf pu howned]) fun _ hq _ => hq

theorem passes_arbiter {a : Arbiter} (h : ∀ m ∈ a.list, m ∈ s.arbiter.list) :
    State.Passes c o { s with arbiter := a } s :=
  ⟨keeps_of_chan rfl h, rfl, rfl⟩

theorem passes_reflexes (v : Vector Reflex 16) : State.Passes c o { s with reflexes := v } s :=
  { State.Passes.refl s with }

theorem passes_modEntry (p : Port) (tag : Byte) {f : Entry → Entry} (hf : ∀ e, (f e).key = e.key) :
    (s.modEntry p tag f).Passes c o s :=
  { State.Passes.refl s with keys := (noMore_modEntry s p tag f hf).keys }

theorem passes_tellRailWait (o' : Owner) : (s.tellRailWait o').Passes c o s := by
  cases o' with
  | order p tag => exact passes_modEntry p tag fun _ => rfl
  | reflex x => exact passes_reflexes _

theorem passes_tellHeatWait (o' : Owner) : (s.tellHeatWait o').Passes c o s := by
  cases o' with
  | order p tag => exact passes_modEntry p tag fun _ => rfl
  | reflex x => exact passes_reflexes _

theorem passes_tellRailWaits (l : List Member) : ∀ s : State, (s.tellRailWaits l).Passes c o s := by
  induction l with
  | nil => exact fun s => .refl s
  | cons m l ih => exact fun s => (ih _).trans (passes_tellRailWait m.owner)

/-! ## The parts of an event within a change of mode -/

theorem passes_depart (d : Chan) : (s.depart false d).Passes c o s := by
  unfold State.depart
  split
  · exact passes_arbiter fun m hm => (List.mem_filter.mp hm).1
  · exact .refl s

/-- A member of a queue that joins the admission list is one whose owner was not absent. -/
theorem passes_joined {q : QueueMember} (hq : q ∈ (s.chan d).queue) : (s.joined d q).Passes c o s where
  recycle pu hphase hpu _ := by
    rw [State.joined, State.chan_modChan]
    split
    · rename_i hd
      subst hd
      exact ⟨hphase, hpu⟩
    · exact ⟨hphase, hpu⟩
  absent h := by
    refine ⟨fun x hx => ?_, fun m hm hc => ?_⟩
    · rw [State.joined, State.chan_modChan] at hx
      split at hx
      · rename_i hd
        subst hd
        exact h.1 x hx
      · exact h.1 x hx
    · rcases List.mem_cons.mp ((insertMember_perm _ _).mem_iff.mp hm) with rfl | hm
      · exact h.1 q (by rw [← show d = c from hc]; exact hq)
      · exact h.2 m hm hc
  ports := rfl
  keys := rfl

theorem passes_kickTest (d : Chan) : (s.kickTest false d).Passes c o s := by
  have hheat : (s.updateHeat d).Passes c o s := passes_note d
  unfold State.kickTest
  split
  · exact .refl s
  · rename_i q rest hqueue
    dsimp only
    split
    · refine State.Passes.trans (passes_joined (s := s.updateHeat d) (d := d) (q := q) ?_) hheat
      rw [State.updateHeat, State.chan_modChan_self]
      show q ∈ (s.chan d).queue
      rw [hqueue]
      exact List.mem_cons_self ..
    · exact (passes_tellHeatWait _).trans
        ((passes_note (s := s.updateHeat d) d).trans hheat)

theorem passes_leaveQueue (d : Chan) (o' : Owner) : (s.leaveQueue false d o').Passes c o s := by
  have hleft : ∀ fr : Front, (s.modChan d fun ch =>
      { ch with queue := ch.queue.filter fun q => q.owner != o', front := fr }).Passes c o s := fun fr =>
    passes_modChan rfl (fun _ hpu _ => hpu) fun q hq _ => (List.mem_filter.mp hq).1
  unfold State.leaveQueue
  dsimp only
  split
  · exact (passes_depart d).trans (hleft _)
  · exact hleft _

theorem passes_displace (d : Chan) : (s.displace false d).Passes c o s :=
  (passes_depart d).trans ((passes_note d).trans (passes_tellRailWaits _ s))

theorem passes_enqueue {q : QueueMember} (hq : q.owner ≠ o) : (enqueue false d q s).state.Passes c o s := by
  have hjoins : (s.modChan d fun ch => { ch with queue := insertQueue q ch.queue }).Passes c o s :=
    passes_modChan rfl (fun _ hpu _ => hpu) fun x hx hxo => by
      rcases List.mem_cons.mp ((insertQueue_perm q _).mem_iff.mp hx) with rfl | hx
      · exact absurd hxo hq
      · exact hx
  unfold enqueue
  dsimp only
  split
  · exact (passes_displace d).trans hjoins
  · exact hjoins

theorem passes_arrive {p : Port} {tag : Byte} (ho : Owner.order p tag ≠ o) :
    (arrive false p tag s).state.Passes c o s := by
  unfold arrive
  split
  · exact .refl s
  · dsimp only
    split
    · exact .refl s
    · exact .refl s
    · exact (passes_enqueue ho).trans ((passes_note _).trans
        (passes_modEntry p tag fun e => by exact e.key_moveTo .queued (by simp)))

theorem passes_ready (p : Port) (tag : Byte) : (ready p tag s).state.Passes c o s := by
  unfold ready
  split
  · exact .refl s
  · split
    · exact .refl s
    · split
      · exact .refl s
      · exact passes_modEntry p tag fun e => e.key_moveTo _ (by simp)

theorem passes_offer (cs : List Chan) : (offer false cs s).state.Passes c o s := by
  unfold offer
  split
  · exact .refl s
  · split
    · exact .refl s
    · split
      · exact passes_kickTest _
      · dsimp only
        split
        · exact passes_leaveQueue _ _
        · exact (passes_reflexes _).trans (passes_leaveQueue _ _)

/-! ## The examination -/

theorem passes_grant {m : Member} (hidle : (s.chan m.channel).phase = .idle) : (s.grant m).Passes c o s := by
  have hchan : ∀ d, (s.grant m).chan d = _ := fun d => by
    rw [State.grant, chan_tellKick, chan_setPhase_modChan]
  have hkeys : (s.grant m).table.map Entry.key = s.table.map Entry.key := (noMore_grant s m).keys
  have hlist : (s.grant m).arbiter.list = s.arbiter.list := by
    unfold State.grant; cases m.owner <;> rfl
  refine ⟨⟨fun pu hphase hpu _ => ?_, fun h => ⟨fun q hq => ?_, by rw [hlist]; exact h.2⟩⟩, ?_, hkeys⟩
  · rw [hchan]
    split
    · rename_i hc
      rw [← hc, hidle] at hphase
      cases hphase
    · exact ⟨hphase, hpu⟩
  · rw [hchan] at hq
    split at hq
    · rename_i hc
      subst hc
      exact h.1 q (List.mem_filter.mp hq).1
    · exact h.1 q hq
  · unfold State.grant; cases m.owner <;> rfl

/-- Grants are made to IDLE channels alone (R14, R65). -/
theorem passes_examineFrom (l : List Member) :
    ∀ s : State, (∀ m ∈ l, m ∈ s.arbiter.list) → (examineFrom l s).Passes c o s := by
  induction l with
  | nil => exact fun s _ => .refl s
  | cons m l ih =>
    intro s hl
    rw [examineFrom]
    split
    · rename_i hfit
      simp only [Bool.and_eq_true, beq_iff_eq] at hfit
      have hrest : State.Passes c o { s with arbiter := { s.arbiter with list := l } } s :=
        passes_arbiter fun x hx => hl x (List.mem_cons_of_mem _ hx)
      have hgrant := passes_grant (c := c) (o := o) (s := { s with arbiter := { s.arbiter with list := l } })
        (m := m) hfit.2
      refine (ih _ fun x hx => ?_).trans (hgrant.trans hrest)
      have hlist : (State.grant { s with arbiter := { s.arbiter with list := l } } m).arbiter.list = l := by
        unfold State.grant; cases m.owner <;> rfl
      rw [hlist]
      exact hx
    · exact .refl s

theorem passes_examine : s.examine.Passes c o s := passes_examineFrom _ s fun _ hm => hm

end Passes

end Sys2Proof.Machine

/-!
SUPPORT. A live pulse that is cut inside a change of mode: its channel stops, and nothing else moves but what the owner
is told.
-/

namespace Sys2Proof.Machine

/-! ## Away from the channel of a cut -/

/-- A state that differs from another in one channel's phase, pulse and heat, in the units in use and in what an owner
is told. -/
structure State.CutAt (d : Chan) (t s : State) : Prop where
  ports : t.ports = s.ports
  keys : t.table.map Entry.key = s.table.map Entry.key
  list : t.arbiter.list = s.arbiter.list
  others : ∀ c, d ≠ c → t.chan c = s.chan c
  queue : (t.chan d).queue = (s.chan d).queue

section CutAt

variable {s : State} {d : Chan}

theorem State.CutAt.refl (s : State) : s.CutAt d s := ⟨rfl, rfl, rfl, fun _ _ => rfl, rfl⟩

theorem State.CutAt.trans {r s t : State} (h : t.CutAt d s) (h' : s.CutAt d r) : t.CutAt d r where
  ports := h.ports.trans h'.ports
  keys := h.keys.trans h'.keys
  list := h.list.trans h'.list
  others c hc := (h.others c hc).trans (h'.others c hc)
  queue := h.queue.trans h'.queue

theorem cutAt_modChan {f : Channel → Channel} (hqueue : (f (s.chan d)).queue = (s.chan d).queue) :
    (s.modChan d f).CutAt d s :=
  { State.CutAt.refl (d := d) s with
    others := fun _ hc => State.chan_modChan_ne s hc f
    queue := by rw [State.chan_modChan_self, hqueue] }

theorem cutAt_modEntry (p : Port) (tag : Byte) {f : Entry → Entry} (hf : ∀ e, (f e).key = e.key) :
    (s.modEntry p tag f).CutAt d s :=
  { State.CutAt.refl s with keys := (noMore_modEntry s p tag f hf).keys }

theorem cutAt_reflexes (v : Vector Reflex 16) : State.CutAt d { s with reflexes := v } s :=
  { State.CutAt.refl s with }

theorem cutAt_stopPulse (s : State) (d : Chan) : (s.stopPulse d none).CutAt d s := by
  have hphase : (s.setPhase d .recycle).CutAt d s :=
    { State.CutAt.refl (d := d) s with
      others := fun c hc => by rw [chan_setPhase, if_neg hc]
      queue := by rw [chan_setPhase, if_pos rfl]; rfl }
  rw [State.stopPulse, State.modPulse]
  exact State.CutAt.trans (cutAt_modChan (by rfl)) hphase

theorem cutAt_tellAbort (s : State) (d : Chan) : (s.tellAbort d).CutAt d s := by
  unfold State.tellAbort
  split
  · exact cutAt_modEntry _ _ fun _ => rfl
  · exact .refl s
  · exact .refl s

/-- The cut of a live pulse wakes no recycle and brings no owner back. -/
theorem State.CutAt.passes {t : State} {c : Chan} {o : Owner} (h : t.CutAt d s)
    (hlive : (s.chan d).phase.isLive = true) : t.Passes c o s where
  recycle pu hphase hpu _ := by
    have hdc : d ≠ c := by
      rintro rfl
      rw [hphase] at hlive
      cases hlive
    rw [h.others c hdc]
    exact ⟨hphase, hpu⟩
  absent hs := by
    refine ⟨?_, by rw [h.list]; exact hs.2⟩
    by_cases hdc : d = c
    · subst hdc; rw [h.queue]; exact hs.1
    · rw [h.others c hdc]; exact hs.1
  ports := h.ports
  keys := h.keys

end CutAt

/-! ## The cut -/

/-- A pulse that is no order's with a present owner, so that the end of its recycle ends no order. -/
def Pulse.EndsNoOrder (pu : Pulse) : Prop := pu.owned = false ∨ ∃ x, pu.owner = .reflex x

/-- What a recycle that ends no order leaves at its end. -/
theorem recycleOver_of_noOrder {s : State} {d : Chan} {pu : Pulse} (hphase : (s.chan d).phase = .recycle)
    (hpu : (s.chan d).pulse = some pu) (hlatched : pu.latched = none) (hquiet : pu.EndsNoOrder) :
    (s.recycleOver d).1 = [] ∧ (s.recycleOver d).2.CutAt d s ∧ (s.recycleOver d).2.table = s.table
      ∧ ((s.recycleOver d).2.chan d).phase.isLive = false := by
  have hrecycled : (s.recycled d .idle (s.chan d).fault).CutAt d s := cutAt_modChan rfl
  have hrest : ((s.recycled d .idle (s.chan d).fault).chan d).phase.isLive = false := by
    rw [chan_recycled_self]; rfl
  have hunowned : pu.owned = false →
      (s.recycled d .idle (s.chan d).fault).tellRecycleEnd d pu false =
        ([], s.recycled d .idle (s.chan d).fault) := fun h => if_neg (by simp [h])
  rw [recycleOver_of_sound hphase hpu hlatched]
  cases howned : pu.owned with
  | false =>
    rw [hunowned howned]
    exact ⟨rfl, hrecycled, rfl, hrest⟩
  | true =>
    rcases hquiet with h | ⟨x, hx⟩
    · rw [howned] at h; cases h
    · rw [tellRecycleEnd_of_reflex hx howned]
      exact ⟨rfl, (cutAt_reflexes _).trans hrecycled, rfl, hrest⟩

/-- A live pulse that is cut, when what its owner is told leaves a recycle that ends no order. -/
theorem cutPulse_spec {s t : State} {d : Chan} {tell : State → State} {pu : Pulse}
    (ht : tell (s.stopPulse d none) = t) (hcut : t.CutAt d s) (hphase : (t.chan d).phase = .recycle)
    (hpu : (t.chan d).pulse = some pu) (hlatched : pu.latched = none) (hquiet : pu.EndsNoOrder) :
    (s.cutPulse d tell).CutAt d s ∧ (s.cutPulse d tell).table = t.table
      ∧ ((s.cutPulse d tell).chan d).phase.isLive = false
      ∧ (((s.chan d).pulse.map (·.recycleLength)).getD 0 ≠ 0 → s.cutPulse d tell = t) := by
  obtain ⟨hends, hover, htable, hrest⟩ := recycleOver_of_noOrder hphase hpu hlatched hquiet
  have hcutPulse : s.cutPulse d tell =
      if ((s.chan d).pulse.map (·.recycleLength)).getD 0 = 0 then (t.recycleOver d).2.doAll false (t.recycleOver d).1
      else t := by rw [← ht]; rfl
  rw [hcutPulse]
  split
  · rename_i hlength
    rw [hends, doAll_nil]
    exact ⟨hover.trans hcut, htable, hrest, fun h => absurd hlength h⟩
  · exact ⟨hcut, rfl, by rw [hphase]; rfl, fun _ => rfl⟩

/-- A channel whose records stand with its state holds the pulse it drives, with no fault latched. -/
theorem pulse_of_live {s : State} (hs : s.coherent) {d : Chan} (hlive : (s.chan d).phase.isLive = true) :
    ∃ pu, (s.chan d).pulse = some pu ∧ pu.latched = none := by
  obtain ⟨hsome, -, hlatched⟩ := hs d
  rw [KeptCore.hasPulse_of_isLive hlive] at hsome
  obtain ⟨pu, hpu⟩ := Option.isSome_iff_exists.mp hsome
  exact ⟨pu, hpu, hlatched pu hpu hlive⟩

theorem chan_tellAbort (s : State) (d c : Chan) : (s.tellAbort d).chan c = s.chan c := by
  unfold State.tellAbort
  split <;> rfl

/-! ## A port order's pulse -/

/-- The record of a pulse that recycles without an owner (R27, R87). -/
def Pulse.unowned (pu : Pulse) (now : Nat) : Pulse := { pu.stopped now none with owned := false }

section AbortPulse

variable {s : State} (hs : s.coherent) {d : Chan} (hlive : (s.chan d).phase.isLive = true)
include hs hlive

/-- The abort of a live pulse: the channel is cut, and the pulse's record, if its recycle has a length, has no owner. -/
theorem abortPulse_spec {pu : Pulse} (hpu : (s.chan d).pulse = some pu) :
    (s.abortPulse d).CutAt d s ∧ ((s.abortPulse d).chan d).phase.isLive = false
      ∧ (s.abortPulse d).table = (s.tellAbort d).table
      ∧ (0 < pu.recycleLength → ((s.abortPulse d).chan d).phase = .recycle
        ∧ ((s.abortPulse d).chan d).pulse = some (pu.unowned s.now)) := by
  obtain ⟨pu', hpu', hlatched⟩ := pulse_of_live hs hlive
  obtain rfl : pu = pu' := Option.some.inj (hpu.symm.trans hpu')
  let told := (s.stopPulse d none).tellAbort d
  let t := told.modPulse d fun pu => { pu with owned := false }
  have hstopped : (s.stopPulse d none).chan d =
      { (s.chan d).updateHeat s.now with phase := .recycle, pulse := some (pu.stopped s.now none) } := by
    rw [stopPulse_eq hpu, State.chan_modChan_self]; rfl
  have hchan : t.chan d =
      { (s.chan d).updateHeat s.now with phase := .recycle, pulse := some (pu.unowned s.now) } := by
    simp only [t, told, State.modPulse, State.chan_modChan_self, chan_tellAbort, hstopped]
    rfl
  have hcut : t.CutAt d s :=
    State.CutAt.trans (s := told) (cutAt_modChan rfl) ((cutAt_tellAbort _ d).trans (cutAt_stopPulse s d))
  obtain ⟨hcuts, htable, hrest, hsame⟩ := cutPulse_spec
    (tell := fun s => (s.tellAbort d).modPulse d fun pu => { pu with owned := false }) (pu := pu.unowned s.now)
    (show _ = t from rfl) hcut (by rw [hchan]) (by rw [hchan]) hlatched (.inl rfl)
  have howner : ((s.stopPulse d none).chan d).pulse.map Pulse.owner = (s.chan d).pulse.map Pulse.owner := by
    rw [hstopped, hpu]; rfl
  refine ⟨hcuts, hrest, htable.trans ?_, fun hlength => ?_⟩
  · show ((s.stopPulse d none).tellAbort d).table = _
    simp only [State.tellAbort, howner]
    split <;> rfl
  · have habort : s.abortPulse d = t := hsame (by rw [hpu]; exact Nat.pos_iff_ne_zero.mp hlength)
    rw [habort, hchan]
    exact ⟨rfl, rfl⟩

theorem passes_abortPulse {c : Chan} {o : Owner} : (s.abortPulse d).Passes c o s := by
  obtain ⟨pu, hpu, -⟩ := pulse_of_live hs hlive
  exact (abortPulse_spec hs hlive hpu).1.passes hlive

end AbortPulse

theorem runs_iff {ch : Channel} {o : Owner} :
    ch.runs o = true ↔ ch.phase.isLive = true ∧ ∃ pu, ch.pulse = some pu ∧ pu.owned = true ∧ pu.owner = o := by
  simp only [Channel.runs, Bool.and_eq_true, Option.any_eq_true, beq_iff_eq]

/-! ## The rest of a change of mode -/

section Rest

variable {s : State} {c : Chan} {o : Owner}

/-- A reflex entry's live pulse is cut with the owner it has (R125, R131). -/
theorem passes_cutReflexPulse (hs : s.coherent) {d : Chan} {x : ReflexNo}
    (hruns : (s.chan d).runs (.reflex x) = true) (cause : Cause) : (s.cutReflexPulse d x cause).Passes c o s := by
  obtain ⟨hlive, pu, hpu, -, howner⟩ := runs_iff.mp hruns
  obtain ⟨pu', hpu', hlatched⟩ := pulse_of_live hs hlive
  obtain rfl : pu = pu' := Option.some.inj (hpu.symm.trans hpu')
  have hchan : ((s.stopPulse d none).reflexPulseEnd x cause).chan d =
      { (s.chan d).updateHeat s.now with phase := .recycle, pulse := some (pu.stopped s.now none) } := by
    show (s.stopPulse d none).chan d = _
    rw [stopPulse_eq hpu, State.chan_modChan_self]; rfl
  have hcut : ((s.stopPulse d none).reflexPulseEnd x cause).CutAt d s :=
    (cutAt_reflexes _).trans (cutAt_stopPulse s d)
  have hspec := cutPulse_spec (tell := fun s => s.reflexPulseEnd x cause) (pu := pu.stopped s.now none) rfl hcut
    (by rw [hchan]) (by rw [hchan]) hlatched (.inr ⟨x, howner⟩)
  exact hspec.1.passes hlive

theorem passes_reflexModeChange (hs : s.coherent) (mode : Mode) (x : ReflexNo) :
    (s.reflexModeChange mode x).Passes c o s := by
  unfold State.reflexModeChange
  dsimp only
  split
  · exact passes_reflexes _
  · exact passes_reflexes _
  · split
    · exact .refl s
    · exact passes_reflexes _
  · split
    · exact .refl s
    · refine (passes_reflexes _).trans ?_
      split
      · exact passes_leaveQueue _ _
      · exact .refl s
  · split
    · split
      · rename_i hruns
        exact passes_cutReflexPulse hs hruns _
      · exact .refl s
    · exact .refl s

/-- A list of parts, each of which keeps the records with the states, passes if each part does. -/
theorem passes_foldl {α : Type} {f : State → α → State} (hcoh : ∀ s a, s.coherent → (f s a).coherent)
    (hf : ∀ s a, s.coherent → (f s a).Passes c o s) (l : List α) :
    ∀ s : State, s.coherent → (l.foldl f s).Passes c o s := by
  induction l with
  | nil => exact fun s _ => .refl s
  | cons a l ih => exact fun s hs => (ih _ (hcoh s a hs)).trans (hf s a hs)

theorem passes_cutLive (hs : s.coherent) : s.cutLive.Passes c o s := by
  unfold State.cutLive
  split
  · refine passes_foldl (fun t d ht => ?_) (fun t d ht => ?_) (allFin 24) s hs
    · split
      · rename_i hlive
        exact kept_coherent.abortPulse d (KeptCore.hasPulse_of_isLive hlive) ht
      · exact ht
    · split
      · rename_i hlive
        exact passes_abortPulse ht hlive
      · exact .refl t
  · exact .refl s

theorem passes_redrive (l : LampNo) : (s.redrive l).Passes c o s := by
  have hlamps : ∀ v : LampUnit, State.Passes c o { s with lampUnit := v } s := fun v =>
    { State.Passes.refl s with }
  have hstart : (s.startLamp l).Passes c o s := by
    unfold State.startLamp
    dsimp only
    split
    · exact hlamps _
    · split
      · exact .refl s
      · split
        · exact hlamps _
        · exact hlamps _
  unfold State.redrive
  dsimp only
  refine State.Passes.trans (s := if (s.lamp l).drive == (s.lamp l).driveLevel s.control.mode s.time then s
    else if (s.lamp l).drive == 0 then s.startLamp l
    else if (s.lamp l).driveLevel s.control.mode s.time == 0 then s.unstage l
    else s) { State.Passes.refl _ with } ?_
  split
  · exact .refl s
  · split
    · exact hstart
    · split
      · exact hlamps _
      · exact .refl s

theorem passes_redriveAll (which : LampNo → Bool) : (s.redriveAll which).Passes c o s := by
  unfold State.redriveAll
  generalize (allFin 40).filter which = l
  induction l generalizing s with
  | nil => exact .refl s
  | cons a l ih => exact ih.trans (passes_redrive a)

end Rest

end Sys2Proof.Machine

/-!
SUPPORT. The takes of a port whose orders a change of mode does not allow: every order of its ring is marked, so that
each one that is taken ends at once, before anything else is done (R78, R80, R129).
-/

namespace Sys2Proof.Machine

/-! ## Live entries by their keys -/

theorem liveEntry_eq_none_iff {s : State} {p : Port} {tag : Byte} :
    s.liveEntry p tag = none ↔ (p, tag, true) ∉ s.table.map Entry.key := by
  simp only [State.liveEntry, List.find?_eq_none, List.mem_map, Entry.key, Prod.mk.injEq, Entry.is, Bool.and_eq_true,
    beq_iff_eq, not_exists, not_and]
  exact ⟨fun h e he hport htag hlive => h e he ⟨hport, htag⟩ hlive, fun h e he hp hlive => h e he hp.1 hp.2 hlive⟩

/-- A port none of whose orders is live has no follower. -/
theorem followerWork_of_ended {s : State} {p : Port} (h : ∀ tag, s.liveEntry p tag = none) (tag : Byte) (good : Bool) :
    s.followerWork p tag good = [] := by
  refine followerWork_of_none (fun g hg => Bool.eq_false_iff.mpr fun hf => ?_) good
  simp only [Entry.follows, Bool.and_eq_true, beq_iff_eq] at hf
  refine liveEntry_eq_none_iff.mp (h g.order.tag) (List.mem_map.mpr ⟨g, hg, ?_⟩)
  simp [Entry.key, Entry.live, hf]

theorem port_conclude_ne (s : State) (e : Entry) (status : EndStatus) {p : Port} (h : e.port ≠ p) :
    (s.conclude e status).port p = s.port p := by
  obtain ⟨f, l, hshape, -⟩ := conclude_shape s e status
  rw [hshape]
  exact State.port_modPort_ne s h f

/-! ## A take -/

/-- What a take can do: nothing, or the head of the ring enters the pending table (R79). -/
theorem takeHead_cases (p : Port) (s : State) :
    takeHead p s = ⟨[], [], s⟩ ∨ ∃ slot rest, (s.port p).ring.slots = slot :: rest ∧
      takeHead p s = ⟨(takeOutcome p slot (s.port p).tail).2, [.takes p],
        { s.modPort p fun ps =>
            { ps with ring := ⟨(ps.ring.head + 1) % 32, rest⟩, tail := ⟨some slot.order.tag, .live⟩ } with
          table := s.table ++ [Entry.taken p slot.order (takeOutcome p slot (s.port p).tail).1] }⟩ := by
  cases hslots : (s.port p).ring.slots with
  | nil => exact .inl (takeHead_of_empty hslots)
  | cons slot rest =>
    by_cases hquota : (s.entriesOf p).length < Config.quota
    · refine .inr ⟨slot, rest, rfl, ?_⟩
      rw [takeHead, hslots]
      exact if_pos hquota
    · refine .inl ?_
      rw [takeHead, hslots]
      exact if_neg hquota

theorem takeOutcome_of_mark {p : Port} {slot : Slot} {m : Mark} (h : slot.mark = some m) (tail : Tail) :
    takeOutcome p slot tail = (.queued, [.finish p slot.order.tag m.status]) := by
  rw [takeOutcome, h]

/-! ## The parts that spare a port -/

/-- A part by which no order of a port comes nearer to its channel. -/
def Work.spares (p : Port) : Work → Prop
  | .offer _ => True
  | .finish _ _ _ => True
  | .ready q _ => q ≠ p
  | .arrive q _ => q ≠ p
  | .takes _ => True

theorem takeOutcome_spares {p q : Port} (h : q ≠ p) (slot : Slot) (tail : Tail) :
    ∀ w ∈ (takeOutcome q slot tail).2, w.spares p := by
  unfold takeOutcome
  dsimp only
  repeat' split
  all_goals simp [Work.spares, h]

theorem followerWork_spares {p q : Port} (h : q ≠ p) (s : State) (tag : Byte) (good : Bool) :
    ∀ w ∈ s.followerWork q tag good, w.spares p := by
  unfold State.followerWork
  split
  · simp
  · split <;> simp [Work.spares, h]

theorem enqueue_spares (p : Port) (c : Chan) (q : QueueMember) (s : State) :
    ∀ w ∈ (enqueue false c q s).next ++ (enqueue false c q s).last, w.spares p := by
  unfold enqueue
  dsimp only
  split <;> simp [Work.spares]

/-- What such a part leads to, if it is no end and no take of the port's own, spares the port too. -/
theorem run_spares {w : Work} {p : Port} (hw : w.spares p) (hfinish : ∀ tag status, w ≠ .finish p tag status)
    (htakes : w ≠ .takes p) (s : State) : ∀ x ∈ (w.run false s).next ++ (w.run false s).last, x.spares p := by
  cases w with
  | offer cs =>
    simp only [Work.run, offer]
    repeat' split
    all_goals simp [Work.spares]
  | finish q tag status =>
    have hq : q ≠ p := fun h => hfinish tag status (h ▸ rfl)
    simp only [Work.run, finish]
    split
    · simp
    · intro x hx
      rw [List.append_assoc, List.mem_append] at hx
      rcases hx with hx | hx
      · exact followerWork_spares hq _ _ _ x hx
      · rcases List.mem_append.mp hx with hx | hx
        · split at hx
          · rw [List.mem_singleton.mp hx]; trivial
          · cases hx
        · rw [List.mem_singleton.mp hx]; trivial
  | ready q tag =>
    simp only [Work.run, ready]
    repeat' split
    all_goals simp [Work.spares, show q ≠ p from hw]
  | arrive q tag =>
    simp only [Work.run, arrive]
    split
    · simp
    · split
      · simp [Work.spares]
      · simp [Work.spares]
      · exact enqueue_spares p _ _ _
  | takes q =>
    have hq : q ≠ p := fun h => htakes (h ▸ rfl)
    rcases takeHead_cases q s with h | ⟨slot, rest, -, h⟩ <;> simp only [Work.run, h]
    · simp
    · intro x hx
      rcases List.mem_append.mp hx with hx | hx
      · exact takeOutcome_spares hq slot _ x hx
      · rw [List.mem_singleton.mp hx]; trivial

/-- Within a change of mode such a part brings no order of the port back to a channel. -/
theorem run_keeps {w : Work} {p : Port} (hw : w.spares p) (s : State) (c : Chan) (tag : Byte) :
    (w.run false s).state.Keeps c (.order p tag) s := by
  cases w with
  | offer cs => exact (passes_offer cs).toKeeps
  | finish q t status =>
    simp only [Work.run, finish]
    split
    · exact .refl s
    · exact (conclude_keeps _ _ _).trans (passes_leaveQueue _ _).toKeeps
  | ready q t => exact (passes_ready q t).toKeeps
  | arrive q t => exact (passes_arrive fun h => hw (Owner.order.inj h).1).toKeeps
  | takes q =>
    rcases takeHead_cases q s with h | ⟨slot, rest, -, h⟩ <;> simp only [Work.run, h]
    · exact .refl s
    · exact keeps_of_chan rfl fun _ hm => hm

/-! ## The orders drawn from a marked ring -/

/-- The record of an order that is taken from a ring and ends at once (R93). -/
def Slot.record (slot : Slot) (status : EndStatus) (time : TableTime) : Completion where
  tag := slot.order.tag
  channel := slot.order.channel
  kind := slot.order.kind
  status := (slot.mark.map Mark.status).getD status
  steps := 0
  firstKick := none
  endTime := time
  heatWaited := false
  railWaited := false
  folded := false

/-- The records of the orders of several slots; a quiet order has none (R90). -/
def slotRecords (status : EndStatus) (time : TableTime) (l : List Slot) : List Completion :=
  (l.filter fun slot => !slot.order.quiet).map fun slot => slot.record status time

/-- What a port's draw from its ring starts from: the marked slots, the records that stand, the status of an end whose
slot has no mark, and the moment. -/
structure Draw where
  port : Port
  slots : List Slot
  records : List Completion
  status : EndStatus
  now : Nat

/-- No order of the port is live, and a number of its ring's orders have been taken and have ended. -/
structure Draw.Done (dr : Draw) (k : Nat) (t : State) : Prop where
  now : t.now = dr.now
  ended : ∀ tag, t.liveEntry dr.port tag = none
  ring : (t.port dr.port).ring.slots = dr.slots.drop k
  records : (t.port dr.port).completions ++ (t.port dr.port).held =
    dr.records ++ slotRecords dr.status (stampOf dr.now) (dr.slots.take k)

/-- Where the port stands between the parts of an event: between two takes, or with an order taken whose end is the
part at the front. -/
inductive Draw.Stands (dr : Draw) : List Work → State → Prop where
  | rests {ws : List Work} {t : State} (k : Nat) (works : ∀ w ∈ ws, w.spares dr.port) (done : dr.Done k t) :
    Draw.Stands dr ws t
  | takes {ws : List Work} {t : State} {k : Nat} {slot : Slot} {rest : List Slot} {m : Mark}
    (works : ∀ w ∈ ws, w.spares dr.port) (hslots : dr.slots.drop k = slot :: rest) (hmark : slot.mark = some m)
    (now : t.now = dr.now)
    (taken : t.liveEntry dr.port slot.order.tag = some (Entry.taken dr.port slot.order .queued))
    (others : ∀ tag, tag ≠ slot.order.tag → t.liveEntry dr.port tag = none)
    (ring : (t.port dr.port).ring.slots = rest)
    (records : (t.port dr.port).completions ++ (t.port dr.port).held =
      dr.records ++ slotRecords dr.status (stampOf dr.now) (dr.slots.take k)) :
    Draw.Stands dr (.finish dr.port slot.order.tag m.status :: ws) t

section Draw

variable {dr : Draw} {s t : State} {k : Nat} {ws : List Work}

theorem Draw.Done.of_passes {c : Chan} {o : Owner} (h : dr.Done k s) (ht : t.Passes c o s) (hnow : t.now = s.now) :
    dr.Done k t where
  now := hnow.trans h.now
  ended tag := by
    have hnone := h.ended tag
    rw [liveEntry_eq_none_iff] at hnone ⊢
    rw [ht.keys]
    exact hnone
  ring := by rw [State.port, ht.ports]; exact h.ring
  records := by rw [State.port, ht.ports]; exact h.records

/-- The end of another port's order. -/
theorem Draw.Done.conclude (h : dr.Done k s) {e : Entry} (he : e.port ≠ dr.port) (status : EndStatus) :
    dr.Done k (s.conclude e status) where
  now := by rw [conclude_now]; exact h.now
  ended tag := by
    rw [liveEntry_conclude]
    split
    · rfl
    · exact h.ended tag
  ring := by rw [port_conclude_ne s e status he]; exact h.ring
  records := by rw [port_conclude_ne s e status he]; exact h.records

/-- The take of another port's order. -/
theorem Draw.Done.take (h : dr.Done k s) {q : Port} (hq : q ≠ dr.port) (f : PortState → PortState) (o : Order)
    (stage : Stage) : dr.Done k { s.modPort q f with table := s.table ++ [Entry.taken q o stage] } where
  now := h.now
  ended tag := by
    have hnone := h.ended tag
    rw [liveEntry_eq_none_iff] at hnone ⊢
    simp only [List.map_append, List.mem_append, List.map_cons, List.map_nil, List.mem_singleton]
    rintro (hmem | hmem)
    · exact hnone hmem
    · exact hq (congrArg Prod.fst hmem).symm
  ring := (congrArg (fun ps : PortState => ps.ring.slots) (State.port_modPort_ne s hq f)).trans h.ring
  records := (congrArg (fun ps : PortState => ps.completions ++ ps.held) (State.port_modPort_ne s hq f)).trans h.records

/-- The take of the port's own order, whose end comes next (R78, R80). -/
theorem Draw.Done.takes (h : dr.Done k s) (works : ∀ w ∈ ws, w.spares dr.port) {slot : Slot} {rest : List Slot}
    (hslots : (s.port dr.port).ring.slots = slot :: rest) {m : Mark} (hmark : slot.mark = some m) (head : Nat)
    (tail : Tail) :
    dr.Stands (.finish dr.port slot.order.tag m.status :: ws)
      { s.modPort dr.port fun ps => { ps with ring := ⟨head, rest⟩, tail := tail } with
        table := s.table ++ [Entry.taken dr.port slot.order .queued] } := by
  have hport : (s.modPort dr.port fun ps => { ps with ring := ⟨head, rest⟩, tail := tail }).port dr.port =
      { s.port dr.port with ring := ⟨head, rest⟩, tail := tail } := State.port_modPort_self ..
  refine .takes (k := k) works (h.ring.symm.trans hslots) hmark h.now ?_ (fun tag htag => ?_)
    (congrArg (fun ps : PortState => ps.ring.slots) hport)
    ((congrArg (fun ps : PortState => ps.completions ++ ps.held) hport).trans h.records)
  · have hnone : s.table.find? (fun e => e.is dr.port slot.order.tag && e.live) = none := h.ended slot.order.tag
    rw [State.liveEntry, List.find?_append, hnone]
    simp [Entry.taken, Entry.is, Entry.live]
  · have hnone : s.table.find? (fun e => e.is dr.port tag && e.live) = none := h.ended tag
    rw [State.liveEntry, List.find?_append, hnone]
    simp [Entry.taken, Entry.is, htag.symm]

/-- The end of the order taken: its record follows those before it. -/
theorem slotRecords_next {slots rest : List Slot} {slot : Slot} {m : Mark} (hslots : slots.drop k = slot :: rest)
    (hmark : slot.mark = some m) (p : Port) (status : EndStatus) (time : TableTime) :
    slotRecords status time (slots.take (k + 1)) =
      slotRecords status time (slots.take k) ++
        if slot.order.quiet = false then [(Entry.taken p slot.order .queued).record m.status time] else [] := by
  have htake : slots.take (k + 1) = slots.take k ++ [slot] := by
    rw [List.take_add, hslots]; rfl
  have hrecord : (Entry.taken p slot.order .queued).record m.status time = slot.record status time := by
    simp [Entry.record, Entry.taken, Slot.record, hmark]
  rw [htake, slotRecords, List.filter_append, List.map_append, hrecord]
  cases hquiet : slot.order.quiet <;> simp [slotRecords, hquiet]

/-- A part that is no end of a live order and no take of the port's own leaves the port as it stands. -/
theorem Draw.Done.run (h : dr.Done k s) {w : Work} (hw : w.spares dr.port) (htakes : w ≠ .takes dr.port) :
    dr.Done k (w.run false s).state := by
  have hnow : (w.run false s).state.now = s.now := (kept_now s.now).run false w rfl
  cases w with
  | offer cs => exact h.of_passes (passes_offer (c := 0) (o := .reflex 0) cs) hnow
  | finish q tag status =>
    cases hlive : s.liveEntry q tag with
    | none =>
      have hrun : Work.run false (.finish q tag status) s = ⟨[], [], s⟩ := by simp only [Work.run, finish, hlive]
      rw [hrun]
      exact h
    | some e =>
      obtain ⟨hport, -⟩ := liveEntry_is hlive
      have hq : e.port ≠ dr.port := fun hp => by
        rw [← hport, hp, h.ended tag] at hlive
        cases hlive
      simp only [Work.run, finish, hlive] at hnow ⊢
      rw [conclude_now] at hnow
      exact (h.of_passes (passes_leaveQueue (c := 0) (o := .reflex 0) _ _) hnow).conclude hq status
  | ready q tag => exact h.of_passes (passes_ready (c := 0) (o := .reflex 0) q tag) hnow
  | arrive q tag => exact h.of_passes (passes_arrive (c := 0) (o := .reflex 0) nofun) hnow
  | takes q =>
    have hq : q ≠ dr.port := fun hp => htakes (hp ▸ rfl)
    rcases takeHead_cases q s with hrun | ⟨slot, rest, -, hrun⟩ <;> simp only [Work.run, hrun]
    · exact h
    · exact h.take hq _ _ _

/-- An end after which no order of its port is live: offers alone and the port's take follow. -/
theorem run_finish_of_ended {p : Port} {tag : Byte} {e : Entry} {status : EndStatus}
    (hlive : s.liveEntry p tag = some e)
    (ht : (s.leaveQueue false e.order.channel (.order p tag)).conclude e status = t)
    (hended : ∀ tag, t.liveEntry p tag = none) :
    ∃ offers, (∀ w ∈ offers, w.spares p) ∧ Work.run false (.finish p tag status) s = ⟨offers, [.takes p], t⟩ := by
  refine ⟨if (s.chan e.order.channel).isTestingFront (.order p tag) then [.offer [e.order.channel]] else [], ?_, ?_⟩
  · split <;> simp [Work.spares]
  · simp only [Work.run, finish, hlive, ht, followerWork_of_ended hended, List.nil_append]

variable (hmarks : ∀ slot ∈ dr.slots, slot.mark.isSome = true)
include hmarks

/-- Each part of an event within a change of mode keeps where the port stands. -/
theorem Draw.Stands.run {w : Work} (h : dr.Stands (w :: ws) s) :
    dr.Stands ((w.run false s).next ++ ws ++ (w.run false s).last) (w.run false s).state := by
  cases h with
  | rests k works done =>
    have hws : ∀ x ∈ ws, x.spares dr.port := fun x hx => works x (List.mem_cons_of_mem _ hx)
    have hw := works w (List.mem_cons_self ..)
    have hspares : (∀ x ∈ (w.run false s).next ++ (w.run false s).last, x.spares dr.port) →
        ∀ x ∈ (w.run false s).next ++ ws ++ (w.run false s).last, x.spares dr.port := fun hrun x hx => by
      simp only [List.mem_append] at hx hrun
      rcases hx with (hx | hx) | hx
      · exact hrun x (.inl hx)
      · exact hws x hx
      · exact hrun x (.inr hx)
    by_cases htakes : w = .takes dr.port
    · subst htakes
      rcases takeHead_cases dr.port s with hrun | ⟨slot, rest, hslots, hrun⟩
      · have hrun' : Work.run false (.takes dr.port) s = ⟨[], [], s⟩ := hrun
        rw [hrun']
        exact .rests k (by simpa using hws) done
      · have hmem : slot ∈ dr.slots := List.mem_of_mem_drop (i := k) (by
          rw [← done.ring, hslots]; exact List.mem_cons_self ..)
        obtain ⟨m, hmark⟩ := Option.isSome_iff_exists.mp (hmarks slot hmem)
        rw [takeOutcome_of_mark hmark] at hrun
        have hrun' : Work.run false (.takes dr.port) s = _ := hrun
        rw [hrun']
        refine done.takes (ws := ws ++ [.takes dr.port]) (fun x hx => ?_) hslots hmark _ _
        rcases List.mem_append.mp hx with hx | hx
        · exact hws x hx
        · rw [List.mem_singleton.mp hx]; trivial
    · by_cases hfinish : ∃ tag status, w = .finish dr.port tag status
      · obtain ⟨tag, status, rfl⟩ := hfinish
        have hrun : Work.run false (.finish dr.port tag status) s = ⟨[], [], s⟩ := by
          simp only [Work.run, finish, done.ended tag]
        rw [hrun]
        exact .rests k (by simpa using hws) done
      · exact .rests k (hspares (run_spares hw (fun tag status h => hfinish ⟨tag, status, h⟩) htakes s))
          (done.run hw htakes)
  | takes works hslots hmark now taken others ring records =>
    rename_i k slot rest m
    have hpass := passes_leaveQueue (c := 0) (o := .reflex 0) (s := s) slot.order.channel
      (.order dr.port slot.order.tag)
    let left := s.leaveQueue false slot.order.channel (.order dr.port slot.order.tag)
    let t := left.conclude (Entry.taken dr.port slot.order .queued) m.status
    have hnow : left.now = s.now := (kept_now s.now).leaveQueue false _ _ rfl
    have htime : left.time = stampOf dr.now := congrArg stampOf (hnow.trans now)
    have hport : left.port dr.port = s.port dr.port := by rw [State.port, hpass.ports]; rfl
    have hended : ∀ tag, t.liveEntry dr.port tag = none := fun tag => by
      rw [liveEntry_conclude]
      split
      · rfl
      · rename_i his
        have hother := others tag fun htag => his (Entry.is_iff.mpr ⟨rfl, htag.symm⟩)
        rw [liveEntry_eq_none_iff] at hother ⊢
        rw [hpass.keys]
        exact hother
    have hrecords := conclude_records left (Entry.taken dr.port slot.order .queued) m.status dr.port
    have hdone : dr.Done (k + 1) t :=
      { now := (conclude_now ..).trans (hnow.trans now)
        ended := hended
        ring := by
          rw [conclude_rings, hport, ring, ← List.drop_drop, hslots]
          rfl
        records := by
          rw [hrecords, hport, records, htime, slotRecords_next hslots hmark dr.port, List.append_assoc]
          simp [Entry.taken] }
    obtain ⟨offers, hoffers, hrun⟩ := run_finish_of_ended taken (status := m.status) (t := t) rfl hended
    rw [hrun]
    refine .rests (k + 1) (fun x hx => ?_) hdone
    simp only [List.mem_append] at hx
    rcases hx with (hx | hx) | hx
    · exact hoffers x hx
    · exact works x hx
    · rw [List.mem_singleton.mp hx]; trivial

/-- Where the port stands when no part is left. -/
theorem Draw.Stands.doAll (h : dr.Stands ws s) : ∃ k, dr.Done k (s.doAll false ws) := by
  have hend := doAll_induct false (I := dr.Stands) (fun w ws s h => h.run hmarks) ws s h
  generalize s.doAll false ws = t at hend
  generalize hws : ([] : List Work) = l at hend
  cases hend with
  | rests k _ done => exact ⟨k, done⟩
  | takes => cases hws

/-- What all the parts leave of a channel and of an order of the port that is gone. -/
theorem Draw.Stands.keeps (h : dr.Stands ws s) (c : Chan) (tag : Byte) :
    (s.doAll false ws).Keeps c (.order dr.port tag) s := by
  have hspares : ∀ {w ws s}, dr.Stands (w :: ws) s → w.spares dr.port := fun h => by
    cases h with
    | rests k works _ => exact works _ (List.mem_cons_self ..)
    | takes => trivial
  exact (doAll_induct false (I := fun ws t => dr.Stands ws t ∧ t.Keeps c (.order dr.port tag) s)
    (fun w ws t ⟨hstands, hkeeps⟩ =>
      ⟨hstands.run hmarks, (run_keeps (hspares hstands) t c tag).trans hkeeps⟩) ws s ⟨h, .refl s⟩).2

end Draw

end Sys2Proof.Machine

/-!
SUPPORT. The ends of the live orders of the ports that a mode does not allow, one after another.
-/

namespace Sys2Proof.Machine

/-! ## An owner leaves its place within a change of mode -/

/-- Every listed member of a channel is the owner of its testing front (R33, R60). -/
def State.Fronts (s : State) (c : Chan) : Prop :=
  ∀ m ∈ s.arbiter.list, m.channel = c → (s.chan c).isTestingFront m.owner = true

/-- The state in which an owner has left its place: its live pulse is cut, or it has left its recycle and its queue. -/
def State.vacated (s : State) (c : Chan) (o : Owner) : State :=
  if (s.chan c).runs o then s.abortPulse c else (s.disown c o).leaveQueue false c o

theorem abortEntry_of_live {s : State} {p : Port} {tag : Byte} {e : Entry} (h : s.liveEntry p tag = some e)
    (status : EndStatus) :
    s.abortEntry status p tag = (s.vacated e.order.channel (.order p tag)).conclude e status := by
  simp only [State.abortEntry, h, State.vacated]

theorem abortEntry_of_none {s : State} {p : Port} {tag : Byte} (h : s.liveEntry p tag = none) (status : EndStatus) :
    s.abortEntry status p tag = s := by
  simp only [State.abortEntry, h]

theorem depart_false (s : State) (c : Chan) : s.depart false c = s.unlisted c := by
  unfold State.depart
  split
  · rfl
  · rename_i hlists
    have hall : s.arbiter.list.filter (fun m => m.channel != c) = s.arbiter.list :=
      List.filter_eq_self.mpr fun m hm => bne_iff_ne.mpr fun hc => hlists (hc ▸ lists_of_mem hm)
    rw [State.unlisted, hall]

/-- A departure without an examination. -/
theorem leaveQueue_false (s : State) (c : Chan) (o : Owner) :
    s.leaveQueue false c o =
      if (s.chan c).isTestingFront o then (s.modChan c (·.frontLeft o)).unlisted c else s.dequeued c o := by
  cases hfront : (s.chan c).isTestingFront o
  · simp only [State.leaveQueue, hfront, Bool.false_eq_true, if_false]
    rfl
  · simp only [State.leaveQueue, hfront, if_true]
    exact depart_false (s.modChan c (·.frontLeft o)) c

/-- A departure from a queue leaves every phase and every pulse. -/
theorem chan_leaveQueue_false (s : State) (c d : Chan) (o : Owner) :
    ((s.leaveQueue false d o).chan c).phase = (s.chan c).phase
      ∧ ((s.leaveQueue false d o).chan c).pulse = (s.chan c).pulse := by
  rw [leaveQueue_false]
  split
  · show ((s.modChan d (·.frontLeft o)).chan c).phase = _ ∧ ((s.modChan d (·.frontLeft o)).chan c).pulse = _
    rw [State.chan_modChan]
    split
    · rename_i hd; subst hd; exact ⟨rfl, rfl⟩
    · exact ⟨rfl, rfl⟩
  · rw [State.dequeued, State.chan_modChan]
    split
    · rename_i hd; subst hd; exact ⟨rfl, rfl⟩
    · exact ⟨rfl, rfl⟩

theorem runs_congr {a b : Channel} (hphase : a.phase = b.phase) (hpulse : a.pulse = b.pulse) (o : Owner) :
    a.runs o = b.runs o := by rw [Channel.runs, Channel.runs, hphase, hpulse]

theorem isTestingFront_congr {a b : Channel} (hphase : a.phase = b.phase) (hqueue : a.queue = b.queue) (o : Owner) :
    a.isTestingFront o = b.isTestingFront o := by
  rw [Channel.isTestingFront, Channel.isTestingFront, hphase, hqueue]

/-- The channel after a pulse has lost an owner. -/
theorem chan_disown (s : State) (c d : Chan) (o : Owner) :
    ((s.disown d o).chan c).phase = (s.chan c).phase ∧ ((s.disown d o).chan c).queue = (s.chan c).queue
      ∧ ((s.disown d o).chan c).pulse =
        if d = c then (s.chan c).pulse.map fun pu => if pu.owner == o then { pu with owned := false } else pu
        else (s.chan c).pulse := by
  rw [State.disown, State.modPulse, State.chan_modChan]
  split
  · rename_i hd; subst hd; exact ⟨rfl, rfl, rfl⟩
  · exact ⟨rfl, rfl, rfl⟩

/-- No channel starts to run an owner's pulse when another owner leaves its recycle. -/
theorem runs_disown {s : State} {c : Chan} {o : Owner} (h : (s.chan c).runs o = false) (d : Chan) (o' : Owner) :
    ((s.disown d o').chan c).runs o = false := by
  obtain ⟨hphase, -, hpulse⟩ := chan_disown s c d o'
  rw [Bool.eq_false_iff, ne_eq, runs_iff] at h ⊢
  rintro ⟨hlive, pu, hpu, howned, howner⟩
  rw [hphase] at hlive
  rw [hpulse] at hpu
  refine h ⟨hlive, ?_⟩
  split at hpu
  · obtain ⟨pv, hpv, rfl⟩ := Option.map_eq_some_iff.mp hpu
    split at howned
    · cases howned
    · rename_i hne
      rw [if_neg hne] at howner
      exact ⟨pv, hpv, howned, howner⟩
  · exact ⟨pu, hpu, howned, howner⟩

/-- A member that leaves a queue leaves the list right: a testing front takes its place in the list with it, and any
other leaves the testing front where it is (R34, R61). -/
theorem fronts_leaveQueue {s : State} {c : Chan} (h : s.Fronts c) (d : Chan) (o : Owner) :
    (s.leaveQueue false d o).Fronts c := by
  rw [leaveQueue_false]
  split
  · intro m hm hc
    obtain ⟨hm, hmd⟩ := List.mem_filter.mp hm
    have hdc : d ≠ c := fun hdc => bne_iff_ne.mp hmd (hc.trans hdc.symm)
    show ((s.modChan d (·.frontLeft o)).chan c).isTestingFront m.owner = true
    rw [State.chan_modChan_ne _ hdc]
    exact h m hm hc
  · rename_i hfront
    intro m hm hc
    rw [State.dequeued, State.chan_modChan]
    split
    · rename_i hdc
      subst hdc
      have hmember := h m hm hc
      have hmo : m.owner ≠ o := fun hmo => hfront (hmo ▸ hmember)
      simp only [Channel.isTestingFront, Bool.and_eq_true, beq_iff_eq] at hmember ⊢
      obtain ⟨hidle, hhead⟩ := hmember
      refine ⟨hidle, ?_⟩
      cases hqueue : (s.chan d).queue with
      | nil => rw [hqueue] at hhead; cases hhead
      | cons q rest =>
        rw [hqueue] at hhead
        have hq : q.owner = m.owner := Option.some.inj hhead
        rw [List.filter_cons_of_pos (by simpa [hq] using hmo)]
        exact hhead
    · exact h m hm hc

/-- An owner that leaves its queue is gone from it, and from the list if the list is right. -/
theorem absent_leaveQueue {s : State} {c : Chan} (h : s.Fronts c) (o : Owner) :
    (s.leaveQueue false c o).Absent c o := by
  rw [leaveQueue_false]
  split
  · refine ⟨fun q hq => ?_, fun m hm hc => ?_⟩
    · have hqueue : ((s.modChan c (·.frontLeft o)).chan c).queue = (s.chan c).queue.filter fun q => q.owner != o := by
        rw [State.chan_modChan_self]; rfl
      have hq' : q ∈ ((s.modChan c (·.frontLeft o)).chan c).queue := hq
      rw [hqueue] at hq'
      exact bne_iff_ne.mp (List.mem_filter.mp hq').2
    · exact absurd hc (bne_iff_ne.mp (List.mem_filter.mp hm).2)
  · rename_i hfront
    refine ⟨fun q hq => ?_, fun m hm hc hmo => hfront (hmo ▸ h m hm hc)⟩
    rw [chan_dequeued] at hq
    exact bne_iff_ne.mp (List.mem_filter.mp hq).2

/-! ## The place left -/

section Vacated

variable {s : State} (hs : s.coherent)
include hs

theorem passes_vacated {c : Chan} {o : Owner} (d : Chan) (o' : Owner) : (s.vacated d o').Passes c o s := by
  unfold State.vacated
  split
  · rename_i hruns
    exact passes_abortPulse hs (runs_iff.mp hruns).1
  · refine (passes_leaveQueue d o').trans (passes_modPulse d fun pu howned => ?_)
    split
    · rw [← howned]
    · rfl

/-- The table after an order has left its place: its own entry may keep the cause (R87, R88). -/
theorem vacated_table (d : Chan) (q : Port) (t : Byte) :
    (s.vacated d (.order q t)).table = s.table
      ∨ (s.vacated d (.order q t)).table = (s.modEntry q t fun e => { e with lastCause := some .abort }).table := by
  unfold State.vacated
  split
  · rename_i hruns
    obtain ⟨hlive, pu, hpu, -, howner⟩ := runs_iff.mp hruns
    obtain ⟨-, -, htable, -⟩ := abortPulse_spec hs hlive hpu
    refine .inr (htable.trans ?_)
    simp only [State.tellAbort, hpu, howner, Option.map_some]
  · refine .inl ?_
    rw [leaveQueue_false]
    split <;> rfl

/-- The entry of any other order is left as it is. -/
theorem vacated_liveEntry (d : Chan) {q p : Port} {t tag : Byte} (h : ¬(q = p ∧ t = tag)) :
    (s.vacated d (.order q t)).liveEntry p tag = s.liveEntry p tag := by
  rcases vacated_table hs d q t with htable | htable <;> rw [State.liveEntry, htable]
  · rfl
  · refine (liveEntry_modEntry (s := s) (q := q) (t := t) (f := fun e => { e with lastCause := some .abort })
      (fun _ => ⟨rfl, rfl, rfl⟩) p tag).trans ?_
    cases hlive : s.liveEntry p tag with
    | none => rfl
    | some e =>
      obtain ⟨hport, htag⟩ := liveEntry_is hlive
      have hnot : ¬e.is q t = true := fun his => h
        ⟨(Entry.is_iff.mp his).1.symm.trans hport, (Entry.is_iff.mp his).2.symm.trans htag⟩
      rw [Option.map_some, if_neg hnot]

/-- Another owner's live pulse runs on. -/
theorem vacated_running {c : Chan} {o : Owner} (hruns : (s.chan c).runs o = true) (d : Chan) {o' : Owner}
    (ho : o' ≠ o) :
    ((s.vacated d o').chan c).phase = (s.chan c).phase ∧ ((s.vacated d o').chan c).pulse = (s.chan c).pulse := by
  obtain ⟨-, pu, hpu, -, howner⟩ := runs_iff.mp hruns
  unfold State.vacated
  split
  · rename_i hruns'
    obtain ⟨hlive, pu', hpu', -, howner'⟩ := runs_iff.mp hruns'
    have hdc : d ≠ c := by
      rintro rfl
      obtain rfl : pu = pu' := Option.some.inj (hpu.symm.trans hpu')
      exact ho (howner'.symm.trans howner)
    rw [(abortPulse_spec hs hlive hpu').1.others c hdc]
    exact ⟨rfl, rfl⟩
  · obtain ⟨hphase, hpulse⟩ := chan_leaveQueue_false (s.disown d o') c d o'
    obtain ⟨hphase', -, hpulse'⟩ := chan_disown s c d o'
    have hkept : (if pu.owner == o' then { pu with owned := false } else pu) = pu :=
      if_neg (by rw [howner]; simpa using ho.symm)
    refine ⟨hphase.trans hphase', hpulse.trans (hpulse'.trans ?_)⟩
    rw [hpu, Option.map_some, hkept, ite_self]

/-- A channel that does not run an owner's pulse does not start to, and its list stays right. -/
theorem vacated_waiting {c : Chan} {o : Owner} (hruns : (s.chan c).runs o = false) (d : Chan) (o' : Owner) :
    ((s.vacated d o').chan c).runs o = false ∧ (s.Fronts c → (s.vacated d o').Fronts c) := by
  unfold State.vacated
  split
  · rename_i hruns'
    obtain ⟨hlive, pu, hpu, -, -⟩ := runs_iff.mp hruns'
    obtain ⟨hcut, hrest, -, -⟩ := abortPulse_spec hs hlive hpu
    by_cases hdc : d = c
    · subst hdc
      refine ⟨by rw [Channel.runs, hrest]; rfl, fun hfronts m hm hc => ?_⟩
      have hfront := hfronts m (hcut.list ▸ hm) hc
      simp only [Channel.isTestingFront, Bool.and_eq_true, beq_iff_eq] at hfront
      rw [hfront.1] at hlive
      cases hlive
    · rw [hcut.others c hdc]
      exact ⟨hruns, fun hfronts m hm hc => by rw [hcut.others c hdc]; exact hfronts m (hcut.list ▸ hm) hc⟩
  · obtain ⟨hphase, hpulse⟩ := chan_leaveQueue_false (s.disown d o') c d o'
    refine ⟨(runs_congr hphase hpulse o).trans (runs_disown hruns d o'), fun hfronts => fronts_leaveQueue ?_ d o'⟩
    obtain ⟨hphase', hqueue', -⟩ := chan_disown s c d o'
    exact fun m hm hc => (isTestingFront_congr hphase' hqueue' m.owner).trans (hfronts m hm hc)

end Vacated

/-! ## Another port's entries -/

theorem entriesOf_congr {s t : State} (h : t.table = s.table) (p : Port) : t.entriesOf p = s.entriesOf p := by
  rw [State.entriesOf, State.entriesOf, h]

/-- Another port's entries are left by the removal of an entry. -/
theorem entriesOf_freeEntry {q p : Port} (h : q ≠ p) (s : State) (t : Byte) :
    (s.freeEntry q t).entriesOf p = s.entriesOf p := by
  simp only [State.entriesOf, State.freeEntry, List.filter_filter]
  refine List.filter_congr fun e _ => ?_
  cases hport : e.port == p
  · rfl
  · have hne : e.is q t = false := Bool.eq_false_iff.mpr fun his =>
      h ((Entry.is_iff.mp his).1.symm.trans (beq_iff_eq.mp hport))
    simp [hne]

/-- Another port's entries are left by a write of an entry that leaves its port. -/
theorem entriesOf_modEntry {q p : Port} (h : q ≠ p) (s : State) (t : Byte) {f : Entry → Entry}
    (hf : ∀ e, (f e).port = e.port) : (s.modEntry q t f).entriesOf p = s.entriesOf p := by
  simp only [State.entriesOf, State.modEntry, List.filter_map]
  have hkeep : (fun e : Entry => e.port == p) ∘ (fun e => if e.is q t then f e else e) = fun e => e.port == p := by
    funext e
    simp only [Function.comp_apply]
    split
    · rw [hf]
    · rfl
  rw [hkeep]
  refine (List.map_congr_left fun e he => if_neg fun his => ?_).trans (List.map_id _)
  exact h ((Entry.is_iff.mp his).1.symm.trans (beq_iff_eq.mp (List.mem_filter.mp he).2))

/-! ## The end of one order -/

section AbortEntry

variable {s : State} (hs : s.coherent) (status : EndStatus)
include hs

theorem abortEntry_keeps (q : Port) (t : Byte) (c : Chan) (o : Owner) : (s.abortEntry status q t).Keeps c o s := by
  cases hlive : s.liveEntry q t with
  | none => rw [abortEntry_of_none hlive]; exact .refl s
  | some e =>
    rw [abortEntry_of_live hlive]
    exact (conclude_keeps _ e status).trans (passes_vacated hs _ _).toKeeps

/-- The order is no longer live, and the entry of every other is left as it is. -/
theorem abortEntry_liveEntry (q p : Port) (t tag : Byte) :
    (s.abortEntry status q t).liveEntry p tag = if q = p ∧ t = tag then none else s.liveEntry p tag := by
  cases hlive : s.liveEntry q t with
  | none =>
    rw [abortEntry_of_none hlive]
    split
    · rename_i h
      rw [← h.1, ← h.2, hlive]
    · rfl
  | some e =>
    obtain ⟨hport, htag⟩ := liveEntry_is hlive
    have his : e.is p tag = true ↔ q = p ∧ t = tag := by rw [Entry.is_iff, hport, htag]
    rw [abortEntry_of_live hlive, liveEntry_conclude]
    split
    · rename_i h
      rw [if_pos (his.mp h)]
    · rename_i h
      rw [if_neg (fun h' => h (his.mpr h')), vacated_liveEntry hs _ fun h' => h (his.mpr h')]

/-- The record of the order follows those of its port; a quiet order has none (R90, R93). -/
theorem abortEntry_records {p : Port} {tag : Byte} {e : Entry} (hlive : s.liveEntry p tag = some e) :
    ((s.abortEntry status p tag).port p).completions ++ ((s.abortEntry status p tag).port p).held =
      (s.port p).completions ++ (s.port p).held ++
        if e.order.quiet = false then [e.record status s.time] else [] := by
  obtain ⟨hport, -⟩ := liveEntry_is hlive
  let left := s.vacated e.order.channel (.order p tag)
  have hpass := passes_vacated (c := 0) (o := .reflex 0) hs e.order.channel (.order p tag)
  have hleft : left.port p = s.port p := by rw [State.port, hpass.ports]; rfl
  have hnow : left.now = s.now := by
    have h := (kept_now s.now).abortEntry status p tag rfl
    rw [abortEntry_of_live hlive, conclude_now] at h
    exact h
  have htime : left.time = s.time := congrArg stampOf hnow
  rw [abortEntry_of_live hlive, conclude_records, hleft, htime]
  simp only [hport, true_and]

/-- The ring of every port is left as it is. -/
theorem abortEntry_ring (q p : Port) (t : Byte) : ((s.abortEntry status q t).port p).ring = (s.port p).ring := by
  cases hlive : s.liveEntry q t with
  | none => rw [abortEntry_of_none hlive]
  | some e =>
    have hpass := passes_vacated (c := 0) (o := .reflex 0) hs e.order.channel (.order q t)
    rw [abortEntry_of_live hlive, conclude_rings, State.port, hpass.ports]
    rfl

/-- Another port's record and entries are left as they are. -/
theorem abortEntry_other {q p : Port} (h : q ≠ p) (t : Byte) :
    (s.abortEntry status q t).port p = s.port p ∧ (s.abortEntry status q t).entriesOf p = s.entriesOf p := by
  cases hlive : s.liveEntry q t with
  | none => rw [abortEntry_of_none hlive]; exact ⟨rfl, rfl⟩
  | some e =>
    obtain ⟨hport, -⟩ := liveEntry_is hlive
    have hne : e.port ≠ p := hport ▸ h
    have hpass := passes_vacated (c := 0) (o := .reflex 0) hs e.order.channel (.order q t)
    rw [abortEntry_of_live hlive]
    refine ⟨(port_conclude_ne _ e status hne).trans (by rw [State.port, hpass.ports]; rfl), ?_⟩
    have hvacated : (s.vacated e.order.channel (.order q t)).entriesOf p = s.entriesOf p := by
      rcases vacated_table hs e.order.channel q t with htable | htable
      · exact entriesOf_congr htable p
      · exact (entriesOf_congr htable p).trans
          (entriesOf_modEntry h s t (f := fun e => { e with lastCause := some .abort }) fun _ => rfl)
    rw [← hvacated]
    rcases conclude_table (s.vacated e.order.channel (.order q t)) e status with htable | htable
    · exact (entriesOf_congr htable p).trans (entriesOf_freeEntry hne _ _)
    · exact (entriesOf_congr htable p).trans (entriesOf_modEntry hne _ _ fun _ => rfl)

end AbortEntry

end Sys2Proof.Machine

/-!
SUPPORT. The live orders of one port end in the order of the takes, and the ports follow one another.
-/

namespace Sys2Proof.Machine

/-! ## The live orders of a port -/

/-- The live orders of a port, in the order of the takes (R96). -/
def State.liveOf (s : State) (p : Port) : List Entry := (s.entriesOf p).filter Entry.live

theorem mem_liveOf_iff {s : State} {p : Port} {e : Entry} :
    e ∈ s.liveOf p ↔ e ∈ s.table ∧ e.port = p ∧ e.live = true := by
  simp only [State.liveOf, State.entriesOf, List.mem_filter, beq_iff_eq, and_assoc]

theorem mem_liveOf_of_liveEntry {s : State} {p : Port} {tag : Byte} {e : Entry} (h : s.liveEntry p tag = some e) :
    e ∈ s.liveOf p ∧ e.order.tag = tag := by
  obtain ⟨hport, htag⟩ := liveEntry_is h
  have hlive := List.find?_some h
  simp only [Bool.and_eq_true] at hlive
  exact ⟨mem_liveOf_iff.mpr ⟨List.mem_of_find?_eq_some h, hport, hlive.2⟩, htag⟩

/-- With distinct tags each live order is the one its tag names (R76). -/
theorem liveEntry_of_nodup {s : State} {p : Port} (hnodup : ((s.liveOf p).map fun e => e.order.tag).Nodup) {e : Entry}
    (he : e ∈ s.liveOf p) : s.liveEntry p e.order.tag = some e := by
  cases h : s.liveEntry p e.order.tag with
  | none =>
    obtain ⟨hmem, hport, hlive⟩ := mem_liveOf_iff.mp he
    refine absurd (List.mem_map.mpr ⟨e, hmem, ?_⟩) (liveEntry_eq_none_iff.mp h)
    rw [Entry.key, hport, hlive]
  | some e' =>
    obtain ⟨he', htag⟩ := mem_liveOf_of_liveEntry h
    rw [List.inj_on_of_nodup_map hnodup he' he htag]

/-- The ends of several orders of a port. -/
def State.abortEach (status : EndStatus) (p : Port) (l : List Entry) (s : State) : State :=
  l.foldl (fun s e => s.abortEntry status p e.order.tag) s

theorem abortPort_eq (status : EndStatus) (s : State) (p : Port) :
    State.abortPort status s p = s.abortEach status p (s.liveOf p) := rfl

theorem abortEach_cons (status : EndStatus) (p : Port) (e : Entry) (l : List Entry) (s : State) :
    s.abortEach status p (e :: l) = (s.abortEntry status p e.order.tag).abortEach status p l := rfl

theorem abortEach_append (status : EndStatus) (p : Port) (l l' : List Entry) (s : State) :
    s.abortEach status p (l ++ l') = (s.abortEach status p l).abortEach status p l' := List.foldl_append

theorem coherent_abortEach {s : State} (hs : s.coherent) (status : EndStatus) (p : Port) (l : List Entry) :
    (s.abortEach status p l).coherent :=
  KeptCore.foldl (fun _ (e : Entry) h => kept_coherent.abortEntry status p e.order.tag h) l s hs

/-- A predicate that each of the ends keeps is kept by all of them. -/
theorem abortEach_induct {I : State → Prop} {status : EndStatus} {p : Port} {l : List Entry}
    (hstep : ∀ s, s.coherent → ∀ e ∈ l, I s → I (s.abortEntry status p e.order.tag)) :
    ∀ s : State, s.coherent → I s → I (s.abortEach status p l) := by
  induction l with
  | nil => exact fun _ _ hI => hI
  | cons e l ih =>
    intro s hs hI
    exact ih (fun s hs x hx => hstep s hs x (List.mem_cons_of_mem _ hx)) _
      (kept_coherent.abortEntry status p e.order.tag hs) (hstep s hs e (List.mem_cons_self ..) hI)

theorem abortEach_keeps {s : State} (hs : s.coherent) (status : EndStatus) (p : Port) (l : List Entry) (c : Chan)
    (o : Owner) : (s.abortEach status p l).Keeps c o s :=
  abortEach_induct (I := fun t => t.Keeps c o s)
    (fun _ ht e _ hkeeps => (abortEntry_keeps ht status p e.order.tag c o).trans hkeeps) s hs (.refl s)

/-- The orders named are live no more, and no other order begins to live. -/
theorem abortEach_liveEntry (status : EndStatus) (p : Port) (l : List Entry) (tag : Byte) :
    ∀ s : State, s.coherent → (s.liveEntry p tag = none ∨ ∃ e ∈ l, e.order.tag = tag) →
      (s.abortEach status p l).liveEntry p tag = none := by
  induction l with
  | nil => exact fun _ _ h => h.elim id fun ⟨_, he, _⟩ => nomatch he
  | cons e l ih =>
    intro s hs h
    refine ih _ (kept_coherent.abortEntry status p e.order.tag hs) ?_
    rw [abortEntry_liveEntry hs]
    rcases h with h | ⟨x, hx, htag⟩
    · exact .inl (by rw [h, ite_self])
    · rcases List.mem_cons.mp hx with rfl | hx
      · exact .inl (if_pos ⟨rfl, htag⟩)
      · exact .inr ⟨x, hx, htag⟩

/-- The records of orders with distinct tags, in their order; a quiet order has none (R90, R93, R96). -/
theorem abortEach_records (status : EndStatus) (p : Port) (l : List Entry) :
    ∀ s : State, s.coherent → (l.map fun e => e.order.tag).Nodup →
      (∀ e ∈ l, s.liveEntry p e.order.tag = some e) →
      ((s.abortEach status p l).port p).completions ++ ((s.abortEach status p l).port p).held =
        (s.port p).completions ++ (s.port p).held
          ++ (l.filter fun e => !e.order.quiet).map fun e => e.record status s.time := by
  induction l with
  | nil => exact fun s _ _ _ => (List.append_nil _).symm
  | cons e l ih =>
    intro s hs hnodup hlive
    obtain ⟨hfresh, hnodup⟩ := List.nodup_cons.mp hnodup
    have hnow : (s.abortEntry status p e.order.tag).time = s.time :=
      congrArg stampOf ((kept_now s.now).abortEntry status p e.order.tag rfl)
    have hothers : ∀ x ∈ l, (s.abortEntry status p e.order.tag).liveEntry p x.order.tag = some x := fun x hx => by
      rw [abortEntry_liveEntry hs, if_neg fun h => hfresh (List.mem_map.mpr ⟨x, hx, h.2.symm⟩)]
      exact hlive x (List.mem_cons_of_mem _ hx)
    rw [abortEach_cons, ih _ (kept_coherent.abortEntry status p e.order.tag hs) hnodup hothers,
      abortEntry_records hs status (hlive e (List.mem_cons_self ..)), hnow]
    cases hquiet : e.order.quiet <;> simp [hquiet]

/-! ## The ports in turn -/

section Ports

variable {s : State} (hs : s.coherent) (status : EndStatus)
include hs

theorem abortPort_ended (p : Port) (tag : Byte) : (State.abortPort status s p).liveEntry p tag = none := by
  refine abortEach_liveEntry status p _ tag s hs ?_
  cases h : s.liveEntry p tag with
  | none => exact .inl rfl
  | some e => exact .inr ⟨e, mem_liveOf_of_liveEntry h⟩

theorem abortPort_other {q p : Port} (h : q ≠ p) :
    (State.abortPort status s q).port p = s.port p ∧ (State.abortPort status s q).entriesOf p = s.entriesOf p :=
  abortEach_induct (I := fun t => t.port p = s.port p ∧ t.entriesOf p = s.entriesOf p)
    (fun t ht e _ hI => by
      obtain ⟨hport, hentries⟩ := abortEntry_other ht status h e.order.tag
      exact ⟨hport.trans hI.1, hentries.trans hI.2⟩) s hs ⟨rfl, rfl⟩

theorem abortPort_ring (q p : Port) : ((State.abortPort status s q).port p).ring = (s.port p).ring :=
  abortEach_induct (I := fun t => (t.port p).ring = (s.port p).ring)
    (fun _ ht e _ hI => (abortEntry_ring ht status q p e.order.tag).trans hI) s hs rfl

end Ports

theorem abortPort_now (s : State) (status : EndStatus) (q : Port) : (State.abortPort status s q).now = s.now :=
  (kept_now s.now).abortPort status q rfl

/-- A predicate that the ends of each of several ports keep is kept by all of them. -/
theorem abortPorts_induct {I : State → Prop} {status : EndStatus} {ps : List Port}
    (hstep : ∀ s, s.coherent → ∀ q ∈ ps, I s → I (State.abortPort status s q)) :
    ∀ s : State, s.coherent → I s → I (ps.foldl (State.abortPort status) s) := by
  induction ps with
  | nil => exact fun _ _ hI => hI
  | cons q ps ih =>
    intro s hs hI
    exact ih (fun s hs x hx => hstep s hs x (List.mem_cons_of_mem _ hx)) _ (kept_coherent.abortPort status q hs)
      (hstep s hs q (List.mem_cons_self ..) hI)

theorem coherent_abortPorts {s : State} (hs : s.coherent) (status : EndStatus) (ps : List Port) :
    (ps.foldl (State.abortPort status) s).coherent :=
  KeptCore.foldl (fun _ p h => kept_coherent.abortPort status p h) ps s hs

/-- What the ends of the orders of several ports leave of another port. -/
theorem abortPorts_other (status : EndStatus) {ps : List Port} {p : Port} (h : p ∉ ps) {s : State} (hs : s.coherent) :
    (ps.foldl (State.abortPort status) s).port p = s.port p
      ∧ (ps.foldl (State.abortPort status) s).entriesOf p = s.entriesOf p
      ∧ (ps.foldl (State.abortPort status) s).now = s.now :=
  abortPorts_induct (I := fun t => t.port p = s.port p ∧ t.entriesOf p = s.entriesOf p ∧ t.now = s.now)
    (fun t ht q hq ⟨hport, hentries, hnow⟩ => by
      obtain ⟨hport', hentries'⟩ := abortPort_other ht status fun hqp : q = p => h (hqp ▸ hq)
      exact ⟨hport'.trans hport, hentries'.trans hentries, (abortPort_now t status q).trans hnow⟩) s hs ⟨rfl, rfl, rfl⟩

theorem liveEntry_of_entriesOf {s t : State} {p : Port} (h : t.entriesOf p = s.entriesOf p) (tag : Byte) :
    t.liveEntry p tag = s.liveEntry p tag := by
  have hfind : ∀ u : State, u.liveEntry p tag = (u.entriesOf p).find? fun e => e.order.tag == tag && e.live :=
    fun u => by
      rw [State.entriesOf, List.find?_filter]
      exact congrArg (u.table.find? ·) (funext fun e => by
        simp only [Entry.is, Bool.and_assoc, Bool.decide_and, Bool.decide_eq_true])
  rw [hfind, hfind, h]

/-- What stands at one of the ports after the ends of all of them: nothing lives, the ring is as it was, and the records
of its orders follow those that stood. -/
theorem abortPorts_ended (status : EndStatus) {ps : List Port} (hnodup : ps.Nodup) {p : Port} (hp : p ∈ ps)
    {s t : State} (hs : s.coherent) (ht : ps.foldl (State.abortPort status) s = t) :
    t.now = s.now ∧ (∀ tag, t.liveEntry p tag = none) ∧ (t.port p).ring = (s.port p).ring
      ∧ (((s.liveOf p).map fun e => e.order.tag).Nodup →
        (t.port p).completions ++ (t.port p).held =
          (s.port p).completions ++ (s.port p).held
            ++ ((s.liveOf p).filter fun e => !e.order.quiet).map fun e => e.record status s.time) := by
  obtain ⟨before, behind, rfl⟩ := List.append_of_mem hp
  obtain ⟨-, hnodup', hdisjoint⟩ := List.nodup_append.mp hnodup
  have hbehind := (List.nodup_cons.mp hnodup').1
  have hbefore : p ∉ before := fun h => hdisjoint p h p (List.mem_cons_self ..) rfl
  let a := before.foldl (State.abortPort status) s
  let b := State.abortPort status a p
  have ha : a.coherent := coherent_abortPorts hs status before
  have hb : b.coherent := kept_coherent.abortPort status p ha
  have ht : t = behind.foldl (State.abortPort status) b := by rw [← ht, List.foldl_append]; rfl
  obtain ⟨hporta, hentriesa, hnowa⟩ := abortPorts_other status hbefore hs
  obtain ⟨hportt, hentriest, hnowt⟩ := abortPorts_other status hbehind hb
  rw [← ht] at hportt hentriest hnowt
  refine ⟨hnowt.trans ((abortPort_now a status p).trans hnowa),
    fun tag => (liveEntry_of_entriesOf hentriest tag).trans (abortPort_ended ha status p tag), ?_, fun htags => ?_⟩
  · rw [hportt, ← hporta]
    exact abortPort_ring ha status p p
  · have hlive : a.liveOf p = s.liveOf p := congrArg (·.filter Entry.live) hentriesa
    have htime : a.time = s.time := congrArg stampOf hnowa
    rw [hportt, ← hporta, ← hlive, ← htime]
    rw [← hlive] at htags
    exact abortEach_records status p _ a ha htags fun e he => liveEntry_of_nodup htags he

/-! ## One order among them -/

/-- The owner that an entry is (R14). -/
def Entry.owner (e : Entry) : Owner := .order e.port e.order.tag

/-- A live order whose turn to end has not come: its pulse still runs, or it still waits for none. -/
structure Entry.Before (e : Entry) (u s : State) : Prop where
  now : s.now = u.now
  live : s.liveEntry e.port e.order.tag = some e
  running : (u.chan e.order.channel).runs e.owner = true →
    (s.chan e.order.channel).phase = (u.chan e.order.channel).phase
      ∧ (s.chan e.order.channel).pulse = (u.chan e.order.channel).pulse
  waiting : (u.chan e.order.channel).runs e.owner = false →
    (s.chan e.order.channel).runs e.owner = false ∧ (u.Fronts e.order.channel → s.Fronts e.order.channel)

/-- An order that has ended in a change of mode: the pulse it drove recycles without an owner, and where it drove none
it is gone from its queue and from the list (R130). -/
structure Entry.After (e : Entry) (u s : State) : Prop where
  recycles : ∀ pu, (u.chan e.order.channel).runs e.owner = true → (u.chan e.order.channel).pulse = some pu →
    0 < pu.recycleLength →
    (s.chan e.order.channel).phase = .recycle ∧ (s.chan e.order.channel).pulse = some (pu.unowned u.now)
  gone : (u.chan e.order.channel).runs e.owner = false → u.Fronts e.order.channel →
    s.Absent e.order.channel e.owner

section One

variable {e : Entry} {u s t : State}

theorem Entry.Before.refl (h : u.liveEntry e.port e.order.tag = some e) : e.Before u u :=
  ⟨rfl, h, fun _ => ⟨rfl, rfl⟩, fun h => ⟨h, id⟩⟩

theorem Entry.After.of_keeps (h : e.After u s) (ht : t.Keeps e.order.channel e.owner s) : e.After u t where
  recycles pu hruns hpu hlength := by
    obtain ⟨hphase, hpulse⟩ := h.recycles pu hruns hpu hlength
    exact ht.recycle _ hphase hpulse rfl
  gone hruns hfronts := ht.absent (h.gone hruns hfronts)

variable (hs : s.coherent) (status : EndStatus)
include hs

/-- The end of another order. -/
theorem Entry.Before.abortEntry (h : e.Before u s) {q : Port} {tag : Byte}
    (hother : ¬(q = e.port ∧ tag = e.order.tag)) : e.Before u (s.abortEntry status q tag) := by
  have howner : Owner.order q tag ≠ e.owner := fun heq => hother ⟨(Owner.order.inj heq).1, (Owner.order.inj heq).2⟩
  have hnow : (s.abortEntry status q tag).now = u.now := (kept_now u.now).abortEntry status q tag h.now
  have hlive : (s.abortEntry status q tag).liveEntry e.port e.order.tag = some e := by
    rw [abortEntry_liveEntry hs, if_neg hother, h.live]
  cases hq : s.liveEntry q tag with
  | none => rw [abortEntry_of_none hq]; exact h
  | some x =>
    rw [abortEntry_of_live hq] at hnow hlive ⊢
    refine ⟨hnow, hlive, fun hruns => ?_, fun hruns => ?_⟩
    · obtain ⟨hphase, hpulse⟩ := h.running hruns
      obtain ⟨hphase', hpulse'⟩ := vacated_running hs ((runs_congr hphase hpulse e.owner).trans hruns) x.order.channel
        howner
      rw [conclude_chan]
      exact ⟨hphase'.trans hphase, hpulse'.trans hpulse⟩
    · obtain ⟨hstill, hfronts⟩ := h.waiting hruns
      obtain ⟨hstill', hfronts'⟩ := vacated_waiting hs hstill x.order.channel (.order q tag)
      refine ⟨by rw [conclude_chan]; exact hstill', fun hu m hm hc => ?_⟩
      rw [conclude_chan]
      rw [(conclude_rest _ x status).2.2] at hm
      exact hfronts' (hfronts hu) m hm hc

/-- The order's own end. -/
theorem Entry.Before.abortEntry_self (h : e.Before u s) :
    e.After u (s.abortEntry status e.port e.order.tag) := by
  rw [abortEntry_of_live h.live]
  refine Entry.After.of_keeps (s := s.vacated e.order.channel e.owner) ⟨fun pu hruns hpu hlength => ?_,
    fun hruns hfronts => ?_⟩ (conclude_keeps _ e status)
  · obtain ⟨hphase, hpulse⟩ := h.running hruns
    have hruns' := (runs_congr hphase hpulse e.owner).trans hruns
    obtain ⟨-, -, -, hrecycles⟩ := abortPulse_spec hs (runs_iff.mp hruns').1 (hpulse.trans hpu)
    rw [State.vacated, if_pos hruns', ← h.now]
    exact hrecycles hlength
  · obtain ⟨hstill, hfronts'⟩ := h.waiting hruns
    obtain ⟨hphase, hqueue, -⟩ := chan_disown s e.order.channel e.order.channel e.owner
    rw [State.vacated, hstill, if_neg Bool.false_ne_true]
    exact absent_leaveQueue (fun m hm hc =>
      (isTestingFront_congr hphase hqueue m.owner).trans (hfronts' hfronts m hm hc)) e.owner

end One

/-- What is left of a live order of one of the ports after the ends of all of them. -/
theorem abortPorts_after (status : EndStatus) {ps : List Port} (hnodup : ps.Nodup) {e : Entry} (hp : e.port ∈ ps)
    {s : State} (hs : s.coherent) (htags : ((s.liveOf e.port).map fun e => e.order.tag).Nodup)
    (he : e ∈ s.liveOf e.port) : e.After s (ps.foldl (State.abortPort status) s) := by
  obtain ⟨before, behind, rfl⟩ := List.append_of_mem hp
  obtain ⟨-, -, hdisjoint⟩ := List.nodup_append.mp hnodup
  have hbefore : e.port ∉ before := fun h => hdisjoint _ h _ (List.mem_cons_self ..) rfl
  let a := before.foldl (State.abortPort status) s
  have ha : a.coherent := coherent_abortPorts hs status before
  obtain ⟨-, hentriesa, -⟩ := abortPorts_other status hbefore hs
  have hlive : a.liveOf e.port = s.liveOf e.port := congrArg (·.filter Entry.live) hentriesa
  have hturn : e.Before s a :=
    abortPorts_induct (I := e.Before s) (fun t ht q hq hI =>
      abortEach_induct (I := e.Before s) (fun r hr x _ hI =>
        hI.abortEntry hr status fun h => hbefore (h.1 ▸ hq)) t ht hI) s hs (.refl (liveEntry_of_nodup htags he))
  obtain ⟨ahead, rest, hsplit⟩ := List.append_of_mem he
  rw [hsplit, List.map_append, List.map_cons] at htags
  obtain ⟨-, -, hfirst⟩ := List.nodup_append.mp htags
  have hturn' : e.Before s (a.abortEach status e.port ahead) :=
    abortEach_induct (I := e.Before s) (fun r hr x hx hI => hI.abortEntry hr status fun h =>
      hfirst _ (List.mem_map.mpr ⟨x, hx, rfl⟩) _ (List.mem_cons_self ..) h.2) a ha hturn
  have hcoh := coherent_abortEach ha status e.port ahead
  have hafter : e.After s (State.abortPort status a e.port) := by
    rw [abortPort_eq, hlive, hsplit, abortEach_append, abortEach_cons]
    exact (hturn'.abortEntry_self hcoh status).of_keeps
      (abortEach_keeps (kept_coherent.abortEntry status _ _ hcoh) status e.port rest _ _)
  rw [List.foldl_append, List.foldl_cons]
  exact hafter.of_keeps (abortPorts_induct (I := fun t => t.Keeps e.order.channel e.owner
    (State.abortPort status a e.port)) (fun t ht q _ hI => (abortEach_keeps ht status q _ _ _).trans hI) _
    (kept_coherent.abortPort status e.port ha) (.refl _))

end Sys2Proof.Machine

/-!
SUPPORT. A change of mode from end to end: the marks, the ends of the orders, and what follows them.
-/

namespace Sys2Proof.Machine

/-! ## States in which the orders stand alike -/

/-- A state with the orders, their channels and their records of another. -/
structure State.SameOrders (t s : State) : Prop where
  now : t.now = s.now
  table : t.table = s.table
  list : t.arbiter.list = s.arbiter.list
  phase : ∀ c, (t.chan c).phase = (s.chan c).phase
  pulse : ∀ c, (t.chan c).pulse = (s.chan c).pulse
  queue : ∀ c, (t.chan c).queue = (s.chan c).queue
  ring : ∀ p, (t.port p).ring = (s.port p).ring
  records : ∀ p, (t.port p).completions ++ (t.port p).held = (s.port p).completions ++ (s.port p).held

theorem State.SameOrders.refl (s : State) : s.SameOrders s :=
  ⟨rfl, rfl, rfl, fun _ => rfl, fun _ => rfl, fun _ => rfl, fun _ => rfl, fun _ => rfl⟩

theorem State.SameOrders.trans {r s t : State} (h : t.SameOrders s) (h' : s.SameOrders r) : t.SameOrders r where
  now := h.now.trans h'.now
  table := h.table.trans h'.table
  list := h.list.trans h'.list
  phase c := (h.phase c).trans (h'.phase c)
  pulse c := (h.pulse c).trans (h'.pulse c)
  queue c := (h.queue c).trans (h'.queue c)
  ring p := (h.ring p).trans (h'.ring p)
  records p := (h.records p).trans (h'.records p)

section SameOrders

variable {s t : State}

theorem State.SameOrders.keeps (h : t.SameOrders s) (c : Chan) (o : Owner) : t.Keeps c o s where
  recycle pu hphase hpu _ := ⟨(h.phase c).trans hphase, (h.pulse c).trans hpu⟩
  absent hs := ⟨by rw [h.queue]; exact hs.1, by rw [h.list]; exact hs.2⟩

theorem State.SameOrders.done (h : t.SameOrders s) {dr : Draw} {k : Nat} (hs : dr.Done k s) : dr.Done k t where
  now := h.now.trans hs.now
  ended tag := by rw [State.liveEntry, h.table]; exact hs.ended tag
  ring := by rw [h.ring]; exact hs.ring
  records := (h.records dr.port).trans hs.records

theorem sameOrders_control (s : State) (ct : Control) : State.SameOrders { s with control := ct } s :=
  { State.SameOrders.refl s with }

theorem sameOrders_modChan (s : State) (c : Chan) {f : Channel → Channel}
    (hf : ∀ ch, (f ch).phase = ch.phase ∧ (f ch).pulse = ch.pulse ∧ (f ch).queue = ch.queue) :
    (s.modChan c f).SameOrders s := by
  have hchan : ∀ d, ((s.modChan c f).chan d).phase = (s.chan d).phase
      ∧ ((s.modChan c f).chan d).pulse = (s.chan d).pulse
      ∧ ((s.modChan c f).chan d).queue = (s.chan d).queue := fun d => by
    rw [State.chan_modChan]
    split
    · rename_i hd; subst hd; exact hf (s.chan c)
    · exact ⟨rfl, rfl, rfl⟩
  exact { State.SameOrders.refl s with
    phase := fun d => (hchan d).1
    pulse := fun d => (hchan d).2.1
    queue := fun d => (hchan d).2.2
    ring := fun _ => rfl
    records := fun _ => rfl }

theorem sameOrders_railFor (s : State) (left entered : Mode) : (s.railFor left entered).SameOrders s := by
  have hoff : ∀ mode, (s.railOff mode).SameOrders s := fun mode => by
    have hchan : ∀ c, (s.railOff mode).chan c = { s.chan c with shortAt := none } := fun c =>
      State.chan_mapTable s (fun ch : Channel => { ch with shortAt := none }) c
    exact ⟨rfl, rfl, rfl, fun c => by rw [hchan], fun c => by rw [hchan], fun c => by rw [hchan], fun _ => rfl,
      fun _ => rfl⟩
  unfold State.railFor
  split
  · exact hoff _
  · exact hoff _
  · split
    · exact sameOrders_control s _
    · exact .refl s

theorem sameOrders_setModeEdges (s : State) : s.setModeEdges.SameOrders s :=
  { State.SameOrders.refl s with
    phase := fun _ => rfl
    pulse := fun _ => rfl
    queue := fun _ => rfl
    ring := fun p => by cases p <;> rfl
    records := fun p => by cases p <;> rfl }

theorem sameOrders_decideLines (s : State) : s.decideLines.SameOrders s :=
  { State.SameOrders.refl s with
    phase := fun _ => rfl
    pulse := fun _ => rfl
    queue := fun _ => rfl
    ring := fun p => by rw [port_decideLines]; simp [PortState.decideLine]
    records := fun p => by rw [port_decideLines]; simp [PortState.decideLine] }

theorem sameOrders_answered (s : State) (p : Port) (status : Status) (body : List Byte) :
    (s.answered p status body).SameOrders s :=
  { State.SameOrders.refl s with
    phase := fun _ => rfl
    pulse := fun _ => rfl
    queue := fun _ => rfl
    ring := fun q => answered_ring s p q status body
    records := fun q => by
      obtain ⟨hcompletions, hheld⟩ := answered_records s p status body q
      rw [hcompletions, hheld] }

theorem liveOf_congr (h : t.table = s.table) (p : Port) : t.liveOf p = s.liveOf p :=
  congrArg (·.filter Entry.live) (entriesOf_congr h p)

/-- What an end leaves, seen from a state in which the orders stand alike but for the rings and the records. -/
theorem Entry.After.of_start {e : Entry} {u v : State} (h : e.After v t) (hnow : v.now = u.now)
    (hlist : v.arbiter.list = u.arbiter.list) (hphase : ∀ c, (v.chan c).phase = (u.chan c).phase)
    (hpulse : ∀ c, (v.chan c).pulse = (u.chan c).pulse) (hqueue : ∀ c, (v.chan c).queue = (u.chan c).queue) :
    e.After u t where
  recycles pu hruns hpu hlength := by
    rw [← hnow]
    exact h.recycles pu ((runs_congr (hphase _) (hpulse _) _).trans hruns) ((hpulse _).trans hpu) hlength
  gone hruns hfronts :=
    h.gone ((runs_congr (hphase _) (hpulse _) _).trans hruns) fun m hm hc =>
      (isTestingFront_congr (hphase _) (hqueue _) _).trans (hfronts m (hlist ▸ hm) hc)

end SameOrders

/-! ## The marks -/

theorem markRings_rest (m : Mark) (ps : List Port) :
    ∀ s : State, ∃ v, ps.foldl (State.markRing m) s = { s with ports := v } := by
  induction ps with
  | nil => exact fun s => ⟨s.ports, rfl⟩
  | cons q ps ih =>
    intro s
    obtain ⟨v, hv⟩ := ih (s.markRing m q)
    exact ⟨v, hv⟩

/-- Each of several ports has its ring marked once (R129). -/
theorem port_markRings (m : Mark) {ps : List Port} (hnodup : ps.Nodup) (p : Port) :
    ∀ s : State, (ps.foldl (State.markRing m) s).port p =
      if p ∈ ps then { s.port p with ring := { (s.port p).ring with slots := markSlots m (s.port p).ring.slots } }
      else s.port p := by
  induction ps with
  | nil => exact fun _ => rfl
  | cons q ps ih =>
    intro s
    obtain ⟨hq, hnodup⟩ := List.nodup_cons.mp hnodup
    rw [List.foldl_cons, ih hnodup]
    by_cases hqp : q = p
    · subst hqp
      rw [if_neg hq, if_pos (List.mem_cons_self ..), State.markRing, State.port_modPort_self]
    · rw [State.markRing, State.port_modPort_ne s hqp]
      simp only [List.mem_cons, Ne.symm hqp, false_or]

theorem markSlots_marked (m : Mark) (slots : List Slot) : ∀ slot ∈ markSlots m slots, slot.mark.isSome = true := by
  intro slot hslot
  obtain ⟨x, -, rfl⟩ := List.mem_map.mp hslot
  simp

/-! ## The parts of the change -/

theorem abortedPorts_nodup (mode : Mode) : (abortedPorts mode).Nodup :=
  List.Nodup.filter _ (by decide)

theorem mem_abortedPorts {mode : Mode} {p : Port} (h : modeAllows mode p = false) : p ∈ abortedPorts mode := by
  refine List.mem_filter.mpr ⟨?_, by simp [h]⟩
  cases p <;> decide

/-- The mode entered, with the rail's part (R134). -/
def State.entered (s : State) (mode : Mode) : State :=
  { s with control := { s.control with mode := mode } }.railFor s.control.mode mode

/-- The mode entered, with every order marked in the rings of the ports that it does not allow (R129). -/
def State.marked (s : State) (mode : Mode) : State :=
  (abortedPorts mode).foldl (State.markRing (abortMark mode)) (s.entered mode)

/-- The state in which every live order of those ports has ended, too (R130). -/
def State.aborted (s : State) (mode : Mode) : State :=
  (abortedPorts mode).foldl (State.abortPort (abortMark mode).status) (s.marked mode)

/-- What a change of mode does after the ends of the live orders: the takes, the reflex table, the cut, the offers with
their examination, and the lamps. -/
def State.settled (s : State) (left mode : Mode) (since : Nat) : State :=
  let drawn := s.doAll false ((abortedPorts mode).map Work.takes)
  let told := (allFin 16).foldl (State.reflexModeChange mode) drawn
  let offered := told.cutLive.offerAndExamine since
  (if left == .service || mode == .service then offered.redriveAll fun l => (offered.lamp l).testCell.isSome
    else offered).setModeEdges

theorem changeMode_eq (s : State) (mode : Mode) :
    s.changeMode mode = (s.aborted mode).settled s.control.mode mode s.arbiter.joins := rfl

/-! ## The ends of the orders -/

theorem sameOrders_entered (s : State) (mode : Mode) : (s.entered mode).SameOrders s :=
  (sameOrders_railFor _ _ _).trans (sameOrders_control s _)

theorem coherent_entered {s : State} (hs : s.coherent) (mode : Mode) : (s.entered mode).coherent :=
  kept_coherent.railFor s.control.mode mode
    (kept_coherent.control s { s.control with mode := mode } (fun h => h) hs)

/-- The marks leave all but the rings as it was. -/
theorem marked_chan (s : State) (mode : Mode) (c : Chan) :
    (s.marked mode).chan c = (s.entered mode).chan c ∧ (s.marked mode).now = s.now
      ∧ (s.marked mode).arbiter.list = s.arbiter.list ∧ (s.marked mode).table = s.table := by
  obtain ⟨v, hrest⟩ := markRings_rest (abortMark mode) (abortedPorts mode) (s.entered mode)
  have hsame := sameOrders_entered s mode
  rw [State.marked, hrest]
  exact ⟨rfl, hsame.now, hsame.list, hsame.table⟩

/-- A port that the mode does not allow has its ring marked. -/
theorem marked_port {s : State} {mode : Mode} {p : Port} (hp : modeAllows mode p = false) :
    ((s.marked mode).port p).ring.slots = markSlots (abortMark mode) (s.port p).ring.slots
      ∧ ((s.marked mode).port p).completions ++ ((s.marked mode).port p).held =
        (s.port p).completions ++ (s.port p).held := by
  have hsame := sameOrders_entered s mode
  rw [State.marked, port_markRings _ (abortedPorts_nodup mode), if_pos (mem_abortedPorts hp), ← hsame.ring,
    ← hsame.records]
  exact ⟨rfl, rfl⟩

/-- The draw that a change into a mode makes from a port's ring, behind the records of its live orders. -/
def State.drawOf (s : State) (mode : Mode) (p : Port) : Draw where
  port := p
  slots := markSlots (abortMark mode) (s.port p).ring.slots
  records := ((s.aborted mode).port p).completions ++ ((s.aborted mode).port p).held
  status := (abortMark mode).status
  now := s.now

section Change

variable {s : State} (hs : s.coherent) {mode : Mode} {p : Port}
include hs

theorem coherent_marked : (s.marked mode).coherent :=
  KeptCore.foldl (fun _ q h => kept_coherent.markRing (abortMark mode) q h) _ _ (coherent_entered hs mode)

theorem coherent_aborted : (s.aborted mode).coherent := coherent_abortPorts (coherent_marked hs) _ _

variable (hp : modeAllows mode p = false)
include hp

/-- Before the first take no order of the port is live; its ring is marked, and its live orders have left their
records. -/
theorem aborted_stands :
    (s.drawOf mode p).Done 0 (s.aborted mode)
      ∧ (((s.liveOf p).map fun e => e.order.tag).Nodup →
        (s.drawOf mode p).records = (s.port p).completions ++ (s.port p).held
            ++ ((s.liveOf p).filter fun e => !e.order.quiet).map fun e => e.record (abortMark mode).status s.time) := by
  obtain ⟨-, hnow, -, htable⟩ := marked_chan s mode 0
  obtain ⟨hslots, hmarked⟩ := marked_port (s := s) hp
  have htime : (s.marked mode).time = s.time := congrArg stampOf hnow
  obtain ⟨hnow', hended, hring, hrecords⟩ :=
    abortPorts_ended (abortMark mode).status (abortedPorts_nodup mode) (mem_abortedPorts hp) (coherent_marked hs)
      (t := s.aborted mode) rfl
  rw [liveOf_congr htable, htime, hmarked] at hrecords
  exact ⟨⟨hnow'.trans hnow, hended, (congrArg Ring.slots hring).trans hslots, (List.append_nil _).symm⟩, hrecords⟩

theorem aborted_after (htags : ((s.liveOf p).map fun e => e.order.tag).Nodup) {e : Entry} (he : e ∈ s.liveOf p) :
    e.After s (s.aborted mode) := by
  obtain ⟨-, hnow, hlist, htable⟩ := marked_chan s mode 0
  have hsame := sameOrders_entered s mode
  have hchan : ∀ c, (s.marked mode).chan c = (s.entered mode).chan c := fun c => (marked_chan s mode c).1
  obtain rfl : e.port = p := (mem_liveOf_iff.mp he).2.1
  exact (abortPorts_after (abortMark mode).status (abortedPorts_nodup mode) (mem_abortedPorts hp) (coherent_marked hs)
    (by rw [liveOf_congr htable]; exact htags) (by rw [liveOf_congr htable]; exact he)).of_start hnow hlist
    (fun c => by rw [hchan]; exact hsame.phase c) (fun c => by rw [hchan]; exact hsame.pulse c)
    (fun c => by rw [hchan]; exact hsame.queue c)

end Change

/-! ## What follows the ends -/

/-- A part of a change of mode that only takes further orders of the port from its ring, and keeps what has ended
there. -/
structure Draw.Leads (dr : Draw) (s t : State) : Prop where
  done : ∀ k, dr.Done k s → ∃ k, dr.Done k t
  keeps : ∀ k, dr.Done k s → ∀ c tag, t.Keeps c (.order dr.port tag) s

section Leads

variable {dr : Draw} {r s t : State}

theorem Draw.Leads.trans (h : dr.Leads r s) (h' : dr.Leads s t) : dr.Leads r t where
  done k hr := by
    obtain ⟨k', hs⟩ := h.done k hr
    exact h'.done k' hs
  keeps k hr c tag := by
    obtain ⟨k', hs⟩ := h.done k hr
    exact (h'.keeps k' hs c tag).trans (h.keeps k hr c tag)

theorem leads_of_passes (hpass : ∀ c o, t.Passes c o s) (hnow : t.now = s.now) : dr.Leads s t :=
  ⟨fun k hs => ⟨k, hs.of_passes (hpass 0 (.reflex 0)) hnow⟩, fun _ _ c _ => (hpass c _).toKeeps⟩

theorem leads_of_sameOrders (h : t.SameOrders s) : dr.Leads s t :=
  ⟨fun k hs => ⟨k, h.done hs⟩, fun _ _ c _ => h.keeps c _⟩

theorem leads_doAll (hmarks : ∀ slot ∈ dr.slots, slot.mark.isSome = true) (s : State) {ws : List Work}
    (hws : ∀ w ∈ ws, w.spares dr.port) : dr.Leads s (s.doAll false ws) :=
  ⟨fun k hs => (Draw.Stands.rests k hws hs).doAll hmarks,
    fun k hs c tag => (Draw.Stands.rests k hws hs).keeps hmarks c tag⟩

theorem leads_offerAndExamine (hmarks : ∀ slot ∈ dr.slots, slot.mark.isSome = true) (s : State) (since : Nat) :
    dr.Leads s (s.offerAndExamine since) := by
  have hoffers : dr.Leads s (s.doAll false [.offer (allFin 24)]) :=
    leads_doAll hmarks s fun w hw => by rw [List.mem_singleton.mp hw]; trivial
  refine hoffers.trans (leads_of_passes (fun c o => (passes_tellRailWaits _ _).trans passes_examine) ?_)
  exact (kept_now _).tellJoined since ((kept_now _).examine rfl)

theorem leads_takes (hmarks : ∀ slot ∈ dr.slots, slot.mark.isSome = true) (s : State) (ps : List Port) :
    dr.Leads s (s.doAll false (ps.map Work.takes)) :=
  leads_doAll hmarks s fun w hw => by
    obtain ⟨q, -, rfl⟩ := List.mem_map.mp hw
    trivial

theorem leads_reflexes (hs : s.coherent) (mode : Mode) (l : List ReflexNo) :
    dr.Leads s (l.foldl (State.reflexModeChange mode) s) :=
  leads_of_passes (fun _ _ => passes_foldl (fun _ x h => kept_coherent.reflexModeChange mode x h)
    (fun _ x h => passes_reflexModeChange h mode x) l s hs)
    (KeptCore.foldl (P := fun t => t.now = s.now) (fun _ x h => (kept_now s.now).reflexModeChange mode x h) l s rfl)

theorem leads_redriveIf (s : State) (b : Bool) (which : LampNo → Bool) :
    dr.Leads s (if b then s.redriveAll which else s) := by
  split
  · exact leads_of_passes (fun c o => passes_redriveAll _) ((kept_now s.now).redriveAll which rfl)
  · exact leads_of_sameOrders (.refl s)

theorem leads_settled (hmarks : ∀ slot ∈ dr.slots, slot.mark.isSome = true) (hs : s.coherent) (left mode : Mode)
    (since : Nat) : dr.Leads s (s.settled left mode since) := by
  have htakes := leads_takes hmarks s (abortedPorts mode)
  have hdrawn := kept_coherent.doAll false ((abortedPorts mode).map Work.takes) hs
  unfold State.settled
  generalize s.doAll false ((abortedPorts mode).map Work.takes) = drawn at htakes hdrawn ⊢
  have hreflexes := leads_reflexes (dr := dr) hdrawn mode (allFin 16)
  have htold : ((allFin 16).foldl (State.reflexModeChange mode) drawn).coherent :=
    KeptCore.foldl (fun _ x h => kept_coherent.reflexModeChange mode x h) _ _ hdrawn
  dsimp only
  generalize (allFin 16).foldl (State.reflexModeChange mode) drawn = told at hreflexes htold ⊢
  have hcut : dr.Leads told told.cutLive :=
    leads_of_passes (fun c o => passes_cutLive htold) ((kept_now told.now).cutLive rfl)
  exact ((((htakes.trans hreflexes).trans hcut).trans (leads_offerAndExamine hmarks _ since)).trans
    (leads_redriveIf _ _ _)).trans (leads_of_sameOrders (sameOrders_setModeEdges _))

end Leads

/-- What a change of mode leaves of a port that the mode entered does not allow. -/
theorem changeMode_ends {s : State} (hs : s.coherent) {mode : Mode} {p : Port} (hp : modeAllows mode p = false) :
    (∃ k, (s.drawOf mode p).Done k (s.changeMode mode))
      ∧ ∀ e ∈ s.liveOf p, ((s.liveOf p).map fun e => e.order.tag).Nodup → e.After s (s.changeMode mode) := by
  obtain ⟨hdone, -⟩ := aborted_stands hs hp
  have hleads := leads_settled (dr := s.drawOf mode p) (markSlots_marked _ _) (coherent_aborted hs (mode := mode))
    s.control.mode mode s.arbiter.joins
  rw [changeMode_eq]
  refine ⟨hleads.done 0 hdone, fun e he htags => (aborted_after hs hp htags he).of_keeps ?_⟩
  have hport : e.port = p := (mem_liveOf_iff.mp he).2.1
  rw [Entry.owner, hport]
  exact hleads.keeps 0 hdone _ _

end Sys2Proof.Machine

/-!
A change of mode and the orders of the ports that the mode entered does not allow.
-/

namespace Sys2Proof.Machine

/-! ## The commands that change the mode -/

theorem answerSetMode_of_tests {s : State} {p : Port} {b : Byte} {target : Mode} (hmode : modeOf b = some target)
    (htarget : targetPermitted p target = true) (hmay : mayEnter p target s.control.mode = true)
    (hreset : s.pins.resetn = true) : (answerSetMode p b s).state = s.changeMode target := by
  simp [answerSetMode, hmode, htarget, hmay, hreset]

theorem answerClearAlarm_of_tests {s : State} {p : Port} (hp : p ≠ .p1) (hmode : s.control.mode = .alarm)
    (hsense : ∀ c : Chan, s.pins.sense[c] = false) : (answerClearAlarm p s).state = s.changeMode .idle := by
  have hlow : s.pins.sense.toList.any id = false := by
    refine List.any_eq_false.mpr fun b hb => ?_
    obtain ⟨n, hn, rfl⟩ := Vector.mem_iff_getElem.mp (Vector.mem_toList_iff.mp hb)
    exact Bool.not_eq_true _ ▸ hsense ⟨n, hn⟩
  simp [answerClearAlarm, hp, hmode, hlow]

/-- A table alarm raised outside ALARM, as a change of mode with a fresh record (R138). -/
theorem raiseAlarm_changes {s : State} (hs : s.coherent) (hmode : s.control.mode ≠ .alarm) (cause : AlarmCause) :
    ∃ s' : State, s'.SameOrders s ∧ s'.coherent ∧ s.raiseAlarm cause = s'.changeMode .alarm :=
  ⟨_, sameOrders_control s { s.control with alarm := some ⟨cause, s.time, none, 0⟩ }, hs,
    if_neg (by simpa using hmode)⟩

/-- A command that enters a mode changes the mode of a state in which the orders stand as before, and what it does then
leaves them (R31, R128, R135, R136, R138, R140). -/
theorem enters_changes {i : Instr} {s t : State} {target : Mode} (h : s.enters i target) (hs : s.coherent)
    (hexec : exec i s = .next t) :
    ∃ s' : State, s'.SameOrders s ∧ s'.coherent ∧ t.SameOrders (s'.changeMode target) := by
  have hraised : ∀ {act : State → State} {s1 : State} {cause : AlarmCause}, s.powered = true →
      event act s = .next t → act s = s1.raiseAlarm cause → s1.SameOrders s → s1.coherent →
      s1.control.mode ≠ .alarm → ∃ s' : State, s'.SameOrders s ∧ s'.coherent ∧ t.SameOrders (s'.changeMode .alarm) := by
    intro act s1 cause hp hevent hact hsame hcoh hmode
    obtain ⟨s', hsame', hcoh', hraise⟩ := raiseAlarm_changes hcoh hmode cause
    obtain rfl : (act s).decideLines = t := Host.Outcome.next.inj ((event_of_powered hp act).symm.trans hevent)
    refine ⟨s', hsame'.trans hsame, hcoh', ?_⟩
    rw [← hraise, ← hact]
    exact sameOrders_decideLines _
  rcases h with ⟨p, b, rfl, hready, hmode, htarget, hmay, hreset⟩ | ⟨p, rfl, hready, hp, hmode, hsense, rfl⟩ |
    ⟨hpowered, hmode, rfl, hcause⟩
  · have hrow := exec_row_of_ready hready (.setMode b)
    refine ⟨s, .refl s, hs, ?_⟩
    rw [← answerSetMode_of_tests hmode htarget hmay hreset, ← Host.Outcome.next.inj (hrow.symm.trans hexec)]
    exact sameOrders_answered _ _ _ _
  · have hrow := exec_row_of_ready hready .clearAlarm
    refine ⟨s, .refl s, hs, ?_⟩
    rw [← answerClearAlarm_of_tests hp hmode hsense, ← Host.Outcome.next.inj (hrow.symm.trans hexec)]
    exact sameOrders_answered _ _ _ _
  · rcases hcause with ⟨c, expiry, rfl, hat, hle⟩ | ⟨expiry, rfl, hat, hle⟩ | ⟨expiry, rfl, hrail, hle, hlow⟩
    · have hdue : s.expired (s.chan c).shortAt = true := by simp [State.expired, hat, hle]
      exact hraised (act := (State.takeShortCheck · c)) hpowered hexec (if_pos hdue)
        (sameOrders_modChan s c fun _ => ⟨rfl, rfl, rfl⟩) (kept_coherent.noShort c hs) hmode
    · have hdue : s.expired s.control.railLossAt = true := by simp [State.expired, hat, hle]
      exact hraised (act := State.takeRailLoss) hpowered hexec (if_pos hdue) (sameOrders_control s _) hs hmode
    · have hdue : s.settleDue = true := by simp [State.settleDue, hrail, hle]
      exact hraised (act := State.takeSettle) (cause := .railNoRise) hpowered hexec
        (by simp [State.takeSettle, hdue, hlow]) (.refl s) hs hmode

/-! ## The orders of a port that the mode entered does not allow -/

/-- What the command leaves of them (R96, R129, R130). -/
theorem enters_ends {i : Instr} {s t : State} {target : Mode} {p : Port} (h : s.enters i target) (hs : s.coherent)
    (hexec : exec i s = .next t) (hp : modeAllows target p = false) :
    (∀ tag, t.liveEntry p tag = none)
      ∧ (∃ k, (t.port p).ring.slots = (markSlots (abortMark target) (s.port p).ring.slots).drop k
        ∧ (((s.liveOf p).map fun e => e.order.tag).Nodup →
          (t.port p).completions ++ (t.port p).held =
            (s.port p).completions ++ (s.port p).held
              ++ (((s.liveOf p).filter fun e => !e.order.quiet).map fun e => e.record (abortMark target).status s.time)
              ++ slotRecords (abortMark target).status s.time
                ((markSlots (abortMark target) (s.port p).ring.slots).take k)))
      ∧ ∀ e ∈ s.liveOf p, ((s.liveOf p).map fun e => e.order.tag).Nodup → e.After s t := by
  obtain ⟨s', hstart, hcoh, hend⟩ := enters_changes h hs hexec
  obtain ⟨⟨k, hdone⟩, hafter⟩ := changeMode_ends hcoh hp
  obtain ⟨-, hrecords⟩ := aborted_stands hcoh hp
  have hlast := hend.done hdone
  have htime : s'.time = s.time := congrArg stampOf hstart.now
  have hslots : (s'.drawOf target p).slots = markSlots (abortMark target) (s.port p).ring.slots :=
    congrArg (fun r : Ring => markSlots (abortMark target) r.slots) (hstart.ring p)
  rw [liveOf_congr hstart.table] at hafter hrecords
  refine ⟨hlast.ended, ⟨k, by rw [← hslots]; exact hlast.ring, fun htags => ?_⟩, fun e he htags => ?_⟩
  · have hall := hlast.records
    have hstamp : stampOf (s'.drawOf target p).now = s.time := htime
    rw [hslots, hrecords htags, hstart.records, htime, hstamp] at hall
    exact hall
  · exact ((hafter e he htags).of_keeps (hend.keeps _ _)).of_start hstart.now hstart.list hstart.phase hstart.pulse
      hstart.queue

theorem abortMark_eq (mode : Mode) : abortMark mode = if mode = .alarm then .alarmAbort else .modeAbort := by
  cases mode <;> rfl

theorem abortMark_status (mode : Mode) :
    (abortMark mode).status = if mode = .alarm then .alarmAbort else .modeAbort := by
  cases mode <;> rfl

/-- Settles O43: the command changes the mode of a state in which the orders stand as before (`enters_changes`). There
every live order of the port ends (`abortPorts_ended`, `abortPorts_after`) before the first take; the takes then end
marked orders alone, so that the port stands at every part of the rest as `Draw.Stands` says. -/
theorem modeChangeEndsOrders : Obligations.ModeChangeEndsOrders := by
  intro i s t target p henters hs hexec hmode
  have hp : modeAllows target p = false := Bool.eq_false_iff.mpr fun h => hmode ((modeAllows_iff target p).mp h)
  obtain ⟨hended, ⟨k, hring, hrecords⟩, hafter⟩ := enters_ends henters hs hexec hp
  rw [abortMark_status, abortMark_eq] at hrecords
  rw [abortMark_eq] at hring
  refine ⟨fun e he hport => ?_, ⟨k, hring, hrecords⟩, fun e he htags => ?_⟩
  · by_contra hstage
    refine liveEntry_eq_none_iff.mp (hended e.order.tag) (List.mem_map.mpr ⟨e, he, ?_⟩)
    simp [Entry.key, Entry.live, hport, hstage]
  · have hleft := hafter e he htags
    obtain rfl : e.port = p := (mem_liveOf_iff.mp he).2.1
    refine ⟨fun pu hlive hpu howner howned hlength => ?_, fun hruns hfronts => hleft.gone hruns hfronts⟩
    obtain ⟨hphase, hpulse⟩ := hleft.recycles pu (runs_iff.mpr ⟨hlive, pu, hpu, howned, howner⟩) hpu hlength
    exact ⟨hphase, gateSixteenths_of_recycle hphase, hpulse.trans (congrArg some (pu.stopped_unowned s.now))⟩

end Sys2Proof.Machine

/-!
WRITE SWITCH CONFIG, READ SWITCHES, SUBSCRIBE and READ SWITCH EVENTS.
-/

namespace Sys2Proof.Machine

theorem switchOf_byte (n : SwitchNo) : switchOf (byte n.val) = some n := by
  have h : (byte n.val).toNat = n.val := by simp [byte]; omega
  simp [switchOf, h]

theorem switchOf_none {b : Byte} (h : 32 ≤ b.toNat) : switchOf b = none := dif_neg (by omega)

/-- An entry has work in hand in WAITING, ACTIVE and SPENT (R112, R118). -/
theorem ReflexState.busy_iff (st : ReflexState) :
    st.busy = true ↔ st = .waiting ∨ st = .active ∨ st = .spent := by
  cases st <;> simp [ReflexState.busy]

theorem switchBusy_iff (s : State) (n : SwitchNo) :
    s.switchBusy n = true ↔ ∃ x, (s.reflexAt x).switch = n ∧ (s.reflexAt x).state.busy = true := by
  simp only [State.switchBusy, List.any_eq_true, Vector.mem_toList_iff, Vector.mem_iff_getElem, Bool.and_eq_true,
    beq_iff_eq]
  constructor
  · rintro ⟨r, ⟨i, hi, rfl⟩, h⟩
    exact ⟨⟨i, hi⟩, h⟩
  · rintro ⟨x, h⟩
    exact ⟨s.reflexAt x, ⟨x.val, x.isLt, rfl⟩, h⟩

/-- WRITE SWITCH CONFIG of a switch, with its tests in order (R112). -/
theorem answerWriteSwitchConfig_eq {p : Port} (hp : p ≠ .p1) (n : SwitchNo) (high : Bool) (closeTime openTime : Byte)
    (s : State) :
    answerWriteSwitchConfig p (byte n.val) high closeTime openTime s =
      if ¬configAllowed s.control.mode p then .refuse .wrongMode s
      else if (s.switchAt n).closedHigh ≠ high ∧ s.switchBusy n then .refuse .entryBusy s
      else ⟨.ok, [], s.writeSwitch n high closeTime.toNat openTime.toNat⟩ := by
  simp [answerWriteSwitchConfig, if_neg hp, switchOf_byte]

/-- Settles O47: each command is `exec_row_of_ready`; the tests of WRITE SWITCH CONFIG are
`answerWriteSwitchConfig_eq`, and what it writes depends on whether the polarity changes. -/
theorem switchCommands : Obligations.SwitchCommands := by
  intro s p hs mode allowed
  have hallowed : configAllowed mode p = true ↔ allowed := configAllowed_iff mode p
  refine ⟨fun b high closeTime openTime => ?_, exec_row_of_ready hs .readSwitches,
    fun set => exec_row_of_ready hs (.subscribe set), ?_⟩
  · intro refused
    have hexec := exec_row_of_ready hs (.writeSwitchConfig b high closeTime openTime)
    simp only [Command.answer] at hexec
    refine ⟨fun hp => ?_, fun hp hb => ?_, ?_⟩
    · rw [answerWriteSwitchConfig, if_pos hp] at hexec
      exact hexec
    · rw [answerWriteSwitchConfig, if_neg hp, switchOf_none hb] at hexec
      exact hexec
    · rintro n hp rfl
      rw [answerWriteSwitchConfig_eq hp] at hexec
      refine ⟨fun hnot => ?_, fun hok hne hbusy => ?_, fun hok hsame => ?_, fun hok hne hfree => ?_⟩
      · rw [if_pos fun h => hnot (hallowed.mp h)] at hexec
        exact hexec
      · have hb : s.switchBusy n = true := by
          obtain ⟨x, hx, hstate⟩ := hbusy
          exact (switchBusy_iff s n).mpr ⟨x, hx, (ReflexState.busy_iff _).mpr hstate⟩
        rw [if_neg (not_not.mpr (hallowed.mpr hok)), if_pos ⟨hne, hb⟩] at hexec
        exact hexec
      · rw [if_neg (not_not.mpr (hallowed.mpr hok)), if_neg (fun h => h.1 hsame)] at hexec
        refine hexec.trans ?_
        rw [State.writeSwitch, State.modSwitch_congr (g := fun sw =>
          { sw with closeTime := closeTime.toNat, openTime := openTime.toNat })]
        simp [← hsame]
      · have hb : ¬s.switchBusy n = true := fun h => by
          obtain ⟨x, hx, hstate⟩ := (switchBusy_iff s n).mp h
          rcases hfree x hx with h | h <;> rw [h] at hstate <;> cases hstate
        rw [if_neg (not_not.mpr (hallowed.mpr hok)), if_neg (fun h => hb h.2)] at hexec
        refine hexec.trans ?_
        rw [State.writeSwitch, State.modSwitch_congr]
        simp [hne, rawClosed]
  · refine (exec_row_of_ready hs .readSwitchEvents).trans ?_
    simp only [Command.answer, answerReadSwitchEvents, List.length_take, List.length_drop]

end Sys2Proof.Machine

/-!
WRITE REFLEX and READ REFLEX.
-/

namespace Sys2Proof.Machine

theorem reflexOf_byte (x : ReflexNo) : reflexOf (byte x.val) = some x := by
  have h : (byte x.val).toNat = x.val := by simp [byte]; omega
  simp [reflexOf, h]

theorem reflexOf_none {b : Byte} (h : 16 ≤ b.toNat) : reflexOf b = none := dif_neg (by omega)

theorem switchOf_eq_none_iff (b : Byte) : switchOf b = none ↔ 32 ≤ b.toNat := by
  simp [switchOf]

theorem channelOf_eq_none_iff (b : Byte) : channelOf b = none ↔ 24 ≤ b.toNat := by
  simp [channelOf]

/-- The fields of a WRITE REFLEX that are out of range: the first test of the command (R118). -/
theorem reflexFields_eq_none_iff (r : ReflexRecord) :
    reflexFields r = none ↔ 32 ≤ r.switch.toNat ∨ actionOf r.action = none
      ∨ (actionOf r.action ≠ some .tilt ∧ 24 ≤ r.channel.toNat) := by
  rw [← switchOf_eq_none_iff, ← channelOf_eq_none_iff]
  cases hn : switchOf r.switch <;> cases ha : actionOf r.action <;> simp [reflexFields, hn, ha]

theorem reflexFields_eq_some {r : ReflexRecord} {n : SwitchNo} {action : Action}
    (hn : switchOf r.switch = some n) (ha : actionOf r.action = some action)
    (h : reflexFields r ≠ none) : reflexFields r = some (n, action) := by
  simp only [reflexFields, hn, ha] at h ⊢
  split
  · rename_i hout
    rw [if_pos hout] at h
    exact absurd rfl h
  · rfl

/-- An entry is armed when it is enabled for the present mode (R119). -/
theorem Reflex.isArmed_iff (r : Reflex) (mode : Mode) :
    r.isArmed mode = true ↔
      r.enabled = true ∧ (mode = .attract ∧ r.inAttract = true ∨ mode = .game ∧ r.inGame = true) := by
  cases mode <;> simp [Reflex.isArmed]

/-- WRITE REFLEX of an entry whose fields are out of range (R118). -/
theorem answerWriteReflex_of_fields_none {p : Port} (hp : p ≠ .p1) (x : ReflexNo) {r : ReflexRecord}
    (h : reflexFields r = none) (s : State) : answerWriteReflex p (byte x.val) r s = .refuse .badOrder s := by
  simp only [answerWriteReflex, if_neg hp, reflexOf_byte, h]

/-- WRITE REFLEX of an entry with fields in range, with its other tests in order (R118). -/
theorem answerWriteReflex_of_fields {p : Port} (hp : p ≠ .p1) (x : ReflexNo) {r : ReflexRecord} {n : SwitchNo}
    {action : Action} (h : reflexFields r = some (n, action)) (s : State) :
    answerWriteReflex p (byte x.val) r s =
      if ¬configAllowed s.control.mode p then .refuse .wrongMode s
      else if (s.reflexAt x).state.busy then .refuse .entryBusy s
      else ⟨.ok, [], s.writeReflex x r n action⟩ := by
  simp [answerWriteReflex, if_neg hp, reflexOf_byte, h]

/-- Settles O48: on a ready port each command is `exec_row_of_ready`; the tests are `reflexFields_eq_none_iff` for the
fields and `answerWriteReflex_of_fields` for the rest, and the entry written is ARMED as `Reflex.isArmed_iff` says. -/
theorem reflexCommands : Obligations.ReflexCommands := by
  intro s p b r hs mode refused
  have hwrite := exec_row_of_ready hs (.writeReflex b r)
  have hread := exec_row_of_ready hs (.readReflex b)
  simp only [Command.answer] at hwrite hread
  refine ⟨fun hp => ?_, fun hp hb => ?_, fun hb => ?_, ?_, ?_⟩
  · rw [answerWriteReflex, if_pos hp] at hwrite
    exact hwrite
  · rw [answerWriteReflex, if_neg hp, reflexOf_none hb] at hwrite
    exact hwrite
  · rw [answerReadReflex, reflexOf_none hb] at hread
    exact hread
  · rintro x rfl
    rw [answerReadReflex, reflexOf_byte] at hread
    exact hread
  · rintro x hp rfl
    split
    · rename_i hout
      rw [answerWriteReflex_of_fields_none hp x ((reflexFields_eq_none_iff r).mpr hout)] at hwrite
      exact hwrite
    · rename_i hin
      have hfields : reflexFields r ≠ none := fun h => hin ((reflexFields_eq_none_iff r).mp h)
      obtain ⟨⟨m, act⟩, hsome⟩ := Option.ne_none_iff_exists'.mp hfields
      rw [answerWriteReflex_of_fields hp x hsome] at hwrite
      split
      · rename_i hmode
        rw [if_pos fun h => hmode ((configAllowed_iff mode p).mp h)] at hwrite
        exact hwrite
      · rename_i hmode
        rw [if_neg (not_not.mpr ((configAllowed_iff mode p).mpr (not_not.mp hmode)))] at hwrite
        split
        · rename_i hbusy
          rw [if_pos ((ReflexState.busy_iff _).mpr hbusy)] at hwrite
          exact hwrite
        · rename_i hbusy
          rw [if_neg (fun h => hbusy ((ReflexState.busy_iff _).mp h))] at hwrite
          intro n action hn ha
          obtain ⟨rfl, rfl⟩ : m = n ∧ act = action := by
            simpa [hsome] using reflexFields_eq_some hn ha hfields
          refine hwrite.trans ?_
          simp only [State.writeReflex, Reflex.restState, Reflex.isArmed_iff]
          rfl

end Sys2Proof.Machine

/-!
SUPPORT. A debounce expiry from end to end: the debounced state changes, the reflex table acts, and each subscribed port
gets its record.
-/

namespace Sys2Proof.Machine

/-! ## The records of an edge in a port's own record -/

/-- A port's record after the record of an edge has been offered to it (R114, R115). -/
def PortState.noted (ps : PortState) (ev : SwitchEvent) : PortState :=
  { ps with
    switches :=
      if ps.switches.set.getLsbD ev.switch.val = true then ps.switches.offerEvent ev else ps.switches }

theorem port_offerEvent (s : State) (ev : SwitchEvent) (p q : Port) :
    (s.offerEvent ev p).port q = if p = q then (s.port q).noted ev else s.port q := by
  unfold State.offerEvent PortState.noted
  by_cases hq : p = q
  · subst hq
    split <;> simp
  · rw [if_neg hq]
    split
    · exact State.port_modPort_ne s hq _
    · rfl

theorem port_offerEvents (s : State) (ev : SwitchEvent) (q : Port) :
    (Port.all.foldl (fun s p => s.offerEvent ev p) s).port q = (s.port q).noted ev := by
  cases q <;> simp [Port.all, port_offerEvent]

/-! ## The lines at the end of an event -/

theorem State.decideLines_ports (s : State) :
    State.decideLines { s with ports := s.decideLines.ports } = s.decideLines := rfl

/-! ## The expiry -/

/-- The state in which a switch's debounced state has changed (R110, R111). -/
def State.turned (s : State) (n : SwitchNo) : State :=
  s.modSwitch n fun sw => { sw with closed := !(s.switchAt n).closed, debounceAt := none }

/-- A debounce expiry in terms of what the reflex table makes of the edge (R111, R114, R115, R120). -/
theorem exec_debounce_of_edge {s u : State} {n : SwitchNo} {expiry : Nat} {named : Option (ReflexNo × ReflexAct)}
    (hp : s.powered = true) (hat : (s.switchAt n).debounceAt = some expiry) (hle : expiry ≤ s.now)
    (hedge : reflexEdge n (!(s.switchAt n).closed) (allFin 16) none (s.turned n) = (named, u)) :
    ∃ t, exec (.debounceExpiry n) s = .next t ∧ t = State.decideLines { u with ports := t.ports }
      ∧ ∀ p, t.port p = PortState.decideLine u.control.mode
        ((u.port p).noted ⟨n, !(s.switchAt n).closed, s.time, none, u.reflexPart named⟩) := by
  let ev : SwitchEvent := ⟨n, !(s.switchAt n).closed, s.time, none, u.reflexPart named⟩
  have hdue : s.expired (s.switchAt n).debounceAt = true := by simp [State.expired, hat, hle]
  have htaken : s.takeDebounce n = Port.all.foldl (fun s p => s.offerEvent ev p) u := by
    rw [State.takeDebounce, if_pos hdue]
    show (s.turned n).edge n (!(s.switchAt n).closed) = _
    rw [State.edge, hedge]
    rfl
  obtain ⟨v, hv⟩ := offerEvents_ports ev Port.all u
  refine ⟨_, event_of_powered hp (State.takeDebounce · n), ?_, fun p => ?_⟩
  · rw [htaken, hv]
    exact (State.decideLines_ports _).symm
  · have hport := port_offerEvents u ev p
    rw [htaken, port_decideLines, hport, hv]

end Sys2Proof.Machine

/-!
A debounce expiry that concerns no reflex entry.
-/

namespace Sys2Proof.Machine

/-- Settles O17: with no entry concerned the reflex table does nothing (`reflexEdge_of_unconcerned`), and the edge is
its records (`exec_debounce_of_edge`). -/
theorem debounceExpiryIsAnEdge : Obligations.DebounceExpiryIsAnEdge := by
  intro s n expiry hp hat hle close hnone
  obtain ⟨t, hexec, ht, hports⟩ := exec_debounce_of_edge hp hat hle
    (reflexEdge_of_unconcerned (s := s.turned n) (fun y _ => hnone y) none)
  have hswitches : t.switches = s.switches.set n { s.switchAt n with closed := close, debounceAt := none } := by
    rw [ht]; rfl
  refine ⟨t, hexec, hswitches, ?_, fun p => ?_⟩
  · rw [hswitches]
    exact ht
  · exact hports p

end Sys2Proof.Machine

/-!
SUPPORT. The edges of a reflex entry that raise no request.
-/

namespace Sys2Proof.Machine

/-! ## One entry and an edge -/

/-- An edge that concerns one entry alone, before its action and after it (R120). -/
theorem reflexEdge_of_alone {n : SwitchNo} {close : Bool} {s t : State} {x : ReflexNo} {act : ReflexAct}
    (hx : (s.reflexAt x).concerned n close = true) (hact : s.reflexAct x close = (act, t))
    (hothers : ∀ y, y ≠ x → (s.reflexAt y).concerned n close = false)
    (hothers' : ∀ y, y ≠ x → (t.reflexAt y).concerned n close = false) :
    reflexEdge n close (allFin 16) none s = (some (x, act), t) := by
  have hmem : x ∈ allFin 16 := List.mem_ofFn.mpr ⟨x, rfl⟩
  have hnodup : (allFin 16).Nodup := List.nodup_ofFn.mpr fun _ _ h => h
  obtain ⟨before, after, hsplit⟩ := List.append_of_mem hmem
  rw [hsplit, List.nodup_middle, List.nodup_cons, List.mem_append, not_or] at hnodup
  obtain ⟨⟨hbefore, hafter⟩, -⟩ := hnodup
  rw [hsplit, reflexEdge_append, reflexEdge_of_unconcerned fun y hy => hothers y (ne_of_mem_of_not_mem hy hbefore)]
  simp only [reflexEdge, hx, if_true, hact]
  exact reflexEdge_of_unconcerned (fun y hy => hothers' y (ne_of_mem_of_not_mem hy hafter)) _

/-- No entry of another switch is concerned with an edge (R120). -/
theorem Reflex.concerned_of_switch_ne {r : Reflex} {n : SwitchNo} (h : r.switch ≠ n) (close : Bool) :
    r.concerned n close = false := by
  simp [Reflex.concerned, h]

/-- A trigger edge concerns every entry of its switch that is not DISARMED (R120). -/
theorem Reflex.concerned_of_trigger {r : Reflex} {n : SwitchNo} {close : Bool} (hswitch : r.switch = n)
    (hedge : r.openEdge = !close) (hstate : r.state ≠ .disarmed) : r.concerned n close = true := by
  cases close <;> simp [Reflex.concerned, hswitch, hedge, hstate]

/-- An OPEN edge concerns a FLIP entry in WAITING, ACTIVE or SPENT (R122). -/
theorem Reflex.concerned_of_open {r : Reflex} {n : SwitchNo} (hswitch : r.switch = n) (hflip : r.action = .flip)
    (hstate : r.state.busy = true) : r.concerned n false = true := by
  have hdisarmed : r.state ≠ .disarmed := by rintro h; rw [h] at hstate; cases hstate
  have harmed : r.state ≠ .armed := by rintro h; rw [h] at hstate; cases hstate
  simp [Reflex.concerned, hswitch, hflip, hdisarmed, harmed]

/-! ## What an entry does with an edge -/

theorem reflexAct_of_open {s : State} {x : ReflexNo} (h : (s.reflexAt x).action = .flip) :
    s.reflexAct x false = s.openEdge x := by
  simp [State.reflexAct, h]

theorem reflexAct_of_trigger_edge {s : State} {x : ReflexNo} {close : Bool}
    (h : (s.reflexAt x).action ≠ .flip ∨ close = true) : s.reflexAct x close = s.triggerEdge x := by
  rcases h with h | h <;> simp [State.reflexAct, h]

/-- A trigger edge of an entry with work in hand is ignored (R120). -/
theorem triggerEdge_of_busy {s : State} {x : ReflexNo} (h : (s.reflexAt x).state.busy = true) :
    s.triggerEdge x = (.ignored, s) := by
  have harmed : (s.reflexAt x).state ≠ .armed := by intro h'; rw [h'] at h; cases h
  simp [State.triggerEdge, harmed]

/-- The trigger edge of an ARMED TILT entry is for the mode GAME alone (R133). -/
theorem triggerEdge_of_tilt {s : State} {x : ReflexNo} (haction : (s.reflexAt x).action = .tilt)
    (hstate : (s.reflexAt x).state = .armed) :
    s.triggerEdge x = if s.control.mode = .game then (.trigger, s.changeMode .tilt) else (.ignored, s) := by
  simp [State.triggerEdge, haction, hstate]

/-- A FLIP entry's OPEN edge during the recycle of its pulse is ignored (R122). -/
theorem openEdge_of_recycle {s : State} {x : ReflexNo} {c : Chan} (hstate : (s.reflexAt x).state = .active)
    (hc : channelOf (s.reflexAt x).channel = some c) (hphase : (s.chan c).phase = .recycle) :
    s.openEdge x = (.ignored, s) := by
  have hruns : (s.chan c).runs (.reflex x) = false := by simp [Channel.runs, hphase, Phase.isLive]
  simp only [State.openEdge, hstate, hc, hruns, Bool.false_eq_true, if_false]

/-- A FLIP entry's OPEN edge releases its live pulse (R122). -/
theorem openEdge_of_live {s : State} {x : ReflexNo} {c : Chan} (hstate : (s.reflexAt x).state = .active)
    (hc : channelOf (s.reflexAt x).channel = some c) (hruns : (s.chan c).runs (.reflex x) = true) :
    s.openEdge x = (.release, s.endPulse c .release none) := by
  simp only [State.openEdge, hstate, hc, hruns, if_true]

theorem openEdge_of_waiting {s : State} {x : ReflexNo} (hstate : (s.reflexAt x).state = .waiting) :
    s.openEdge x = (.withdraw, s.withdraw x) := by
  simp only [State.openEdge, hstate]

theorem openEdge_of_spent {s : State} {x : ReflexNo} (hstate : (s.reflexAt x).state = .spent) :
    s.openEdge x = (.rearm, s.modReflex x fun r => { r with state := .armed }) := by
  simp only [State.openEdge, hstate]

/-! ## The withdrawal of a request -/

theorem withdraw_eq {s : State} {x : ReflexNo} {c : Chan} (hc : channelOf (s.reflexAt x).channel = some c) :
    s.withdraw x =
      ((s.modReflex x fun r => { r with state := .armed }).leaveQueue true c (.reflex x)).doAll true [.offer [c]] := by
  simp only [State.withdraw, hc]

/-- A request behind a pulse is withdrawn from the queue alone (R122). -/
theorem withdraw_of_busy {s : State} {x : ReflexNo} {c : Chan} (hc : channelOf (s.reflexAt x).channel = some c)
    (hbusy : (s.chan c).phase.busy = true) :
    s.withdraw x = (s.dequeued c (.reflex x)).modReflex x fun r => { r with state := .armed } := by
  have hout : (s.chan c).phase ≠ .idle := by intro h; rw [h] at hbusy; cases hbusy
  let s1 := s.modReflex x fun r => { r with state := .armed }
  have hnone : ∀ d ∈ [c], (s1.dequeued c (.reflex x)).awaitsOffer d = false := fun d hd => by
    obtain rfl := List.mem_singleton.mp hd
    exact awaitsOffer_of_not_idle (by rw [chan_dequeued]; exact hout)
  rw [withdraw_eq hc, leaveQueue_of_out (by exact hout), doAll_offer_of_none hnone, doAll_nil]
  rfl

/-- A testing front that is withdrawn leaves its queue and the admission list; with the queue then empty and nothing
granted that is all (R34, R61, R122). -/
theorem withdraw_of_front {s : State} {x : ReflexNo} {c : Chan} {q : QueueMember}
    (hc : channelOf (s.reflexAt x).channel = some c) (hphase : (s.chan c).phase = .idle)
    (hqueue : (s.chan c).queue = [q]) (howner : q.owner = .reflex x)
    (hquiet : s.control.rail ≠ .on ∨ s.arbiter.list.filter (fun m => m.channel ≠ c) = []) :
    s.withdraw x =
      ((s.unlisted c).modChan c fun ch => { ch with queue := [], front := .channelWait }).modReflex x fun r =>
        { r with state := .armed } := by
  let s1 := s.modReflex x fun r => { r with state := .armed }
  have hfront : (s1.chan c).isTestingFront (.reflex x) = true := by
    show (s.chan c).isTestingFront (.reflex x) = true
    simp [Channel.isTestingFront, hphase, hqueue, howner]
  have hempty : (((s1.modChan c (·.frontLeft (.reflex x))).unlisted c).chan c).queue = [] := by
    show ((s1.modChan c (·.frontLeft (.reflex x))).chan c).queue = []
    rw [State.chan_modChan_self]
    show (s.chan c).queue.filter _ = []
    simp [hqueue, howner]
  have hnone : ∀ d ∈ [c], State.awaitsOffer ((s1.modChan c (·.frontLeft (.reflex x))).unlisted c) d = false :=
    fun d hd => by
      obtain rfl := List.mem_singleton.mp hd
      exact awaitsOffer_of_empty hempty
  have hleft : s.modChan c (·.frontLeft (.reflex x)) =
      s.modChan c fun ch => { ch with queue := [], front := .channelWait } :=
    State.modChan_congr (by simp [Channel.frontLeft, hqueue, howner])
  rw [withdraw_eq hc, leaveQueue_of_quiet_front hfront hquiet, doAll_offer_of_none hnone, doAll_nil]
  exact congrArg (fun u => (State.unlisted u c).modReflex x fun r => { r with state := .armed }) hleft

end Sys2Proof.Machine

/-!
SUPPORT. What a change of mode can do to a reflex entry and to its pulse, said once: it tells an entry of its own
request alone, and touches the coil of an IDLE channel or of a pulse that is cut. A predicate that survives these writes
(`KeptAsking`) survives every part of the change.
-/

namespace Sys2Proof.Machine

/-! ## The writes -/

/-- A reflex entry asks for a kick: its request stands in a channel queue or in the admission list. -/
def State.Asks (s : State) (x : ReflexNo) : Prop :=
  (∃ c, ∃ q ∈ (s.chan c).queue, q.owner = .reflex x) ∨ ∃ m ∈ s.arbiter.list, m.owner = .reflex x

/-- What an entry can be told in a mode: its settings stay, and one that is not armed gets no state but ACTIVE or
DISARMED (R119, R121, R123). -/
structure Reflex.Told (mode : Mode) (a b : Reflex) : Prop where
  fields : b = { a with state := b.state, report := b.report }
  state : a.isArmed mode = false → b.state = a.state ∨ b.state = .active ∨ b.state = .disarmed

/-- A state with the reflex table, the mode controller, the clock, the phases and the pulses of reflex entries of
another, and no entry that asks anew. -/
structure State.Calm (t s : State) : Prop where
  reflexes : t.reflexes = s.reflexes
  control : t.control = s.control
  now : t.now = s.now
  phase : ∀ c, (t.chan c).phase = (s.chan c).phase
  pulse : ∀ c pu x, (s.chan c).pulse = some pu → pu.owner = .reflex x → (t.chan c).pulse = some pu
  asks : ∀ x, t.Asks x → s.Asks x

/-- A predicate that survives what an entry can be told. -/
def Tells (P : State → Prop) (x : ReflexNo) : Prop :=
  ∀ (s : State) (f : Reflex → Reflex), (∀ r : Reflex, r.Told s.control.mode (f r)) → P s → P (s.modReflex x f)

/-- A predicate that survives a change of a channel's coil, with its queue no longer than before. -/
def Coils (P : State → Prop) (c : Chan) : Prop :=
  ∀ (s : State) (units : Nat) (f : Channel → Channel),
    (∀ q ∈ (f (s.chan c)).queue, q ∈ (s.chan c).queue) → P s → P ((s.withUnits units).modChan c f)

/-- A predicate that survives the writes of a change of mode that are no entry's own part. -/
structure KeptAsking (P : State → Prop) : Prop where
  calm : ∀ s t, t.Calm s → P s → P t
  tell : ∀ s x, P s → s.Asks x → Tells P x
  coil : ∀ s c, P s → ((s.chan c).phase = .idle ∨ ∃ p tag, (s.chan c).runs (.order p tag) = true) → Coils P c

/-! ## Calm writes -/

section Calm

variable {s : State}

theorem State.Calm.refl (s : State) : s.Calm s := ⟨rfl, rfl, rfl, fun _ => rfl, fun _ _ _ h _ => h, fun _ => id⟩

theorem calm_ports (v : PerPort PortState) : State.Calm { s with ports := v } s := { State.Calm.refl s with }

theorem calm_table (v : List Entry) : State.Calm { s with table := v } s := { State.Calm.refl s with }

theorem calm_lamps (v : LampUnit) : State.Calm { s with lampUnit := v } s := { State.Calm.refl s with }

theorem asks_of_queue {c : Chan} {q : QueueMember} (hq : q ∈ (s.chan c).queue) {x : ReflexNo}
    (howner : q.owner = .reflex x) : s.Asks x := .inl ⟨c, q, hq, howner⟩

theorem asks_of_list {m : Member} (hm : m ∈ s.arbiter.list) {x : ReflexNo} (howner : m.owner = .reflex x) :
    s.Asks x := .inr ⟨m, hm, howner⟩

theorem calm_arbiter {a : Arbiter} (h : ∀ m ∈ a.list, ∀ x, m.owner = .reflex x → s.Asks x) :
    State.Calm { s with arbiter := a } s :=
  { State.Calm.refl s with
    asks := fun x hx => hx.elim .inl fun ⟨m, hm, howner⟩ => h m hm x howner }

/-- A note on a channel that leaves its phase, a reflex entry's pulse and, but for orders, its queue. -/
theorem calm_modChan {c : Chan} {f : Channel → Channel} (hphase : (f (s.chan c)).phase = (s.chan c).phase)
    (hpulse : ∀ pu x, (s.chan c).pulse = some pu → pu.owner = .reflex x → (f (s.chan c)).pulse = some pu)
    (hqueue : ∀ q ∈ (f (s.chan c)).queue, ∀ x, q.owner = .reflex x → q ∈ (s.chan c).queue) :
    (s.modChan c f).Calm s where
  reflexes := rfl
  control := rfl
  now := rfl
  phase d := by
    rw [State.chan_modChan]
    split
    · rename_i hd; rw [hphase, hd]
    · rfl
  pulse d pu x hpu howner := by
    rw [State.chan_modChan]
    split
    · rename_i hd; subst hd; exact hpulse pu x hpu howner
    · exact hpu
  asks x hx := by
    rcases hx with ⟨d, q, hq, howner⟩ | hx
    · rw [State.chan_modChan] at hq
      split at hq
      · exact asks_of_queue (hqueue q hq x howner) howner
      · exact asks_of_queue hq howner
    · exact .inr hx

/-- A note on a channel that leaves its phase, its pulse and its queue. -/
theorem calm_note (c : Chan) {f : Channel → Channel}
    (hf : ∀ ch, (f ch).phase = ch.phase ∧ (f ch).pulse = ch.pulse ∧ (f ch).queue = ch.queue := by
      exact fun _ => ⟨rfl, rfl, rfl⟩) : (s.modChan c f).Calm s := by
  obtain ⟨hphase, hpulse, hqueue⟩ := hf (s.chan c)
  exact calm_modChan hphase (fun _ _ hpu _ => hpulse.trans hpu) fun _ hq _ _ => hqueue ▸ hq

/-- A reflex entry's pulse keeps its owner when an order leaves its recycle. -/
theorem calm_disown (c : Chan) (p : Port) (tag : Byte) : (s.disown c (.order p tag)).Calm s := by
  rw [State.disown, State.modPulse]
  refine calm_modChan rfl (fun pu x hpu howner => ?_) fun _ hq _ _ => hq
  simp [hpu, howner]

end Calm

/-! ## What an entry is told -/

section Told

variable (mode : Mode) (r : Reflex)

theorem Reflex.told_report (rep : Report) : r.Told mode { r with report := rep } := ⟨rfl, fun _ => .inl rfl⟩

theorem Reflex.told_active : r.Told mode { r with state := .active } := ⟨rfl, fun _ => .inr (.inl rfl)⟩

theorem Reflex.told_disarmed : r.Told mode { r with state := .disarmed } := ⟨rfl, fun _ => .inr (.inr rfl)⟩

theorem Reflex.told_rest : r.Told mode { r with state := r.restState mode } :=
  ⟨rfl, fun h => .inr (.inr (by simp [Reflex.restState, h]))⟩

theorem Reflex.told_dropped (cause : DropCause) : r.Told mode (r.dropped mode cause) :=
  ⟨rfl, fun h => .inr (.inr (by simp [Reflex.dropped, Reflex.afterDrop, h]))⟩

theorem Reflex.told_recycled (closed : Bool) : r.Told mode { r with state := r.afterRecycle mode closed } :=
  ⟨rfl, fun h => .inr (.inr (by simp [Reflex.afterRecycle, h]))⟩

end Told

/-! ## Coils -/

namespace Coils

variable {P : State → Prop} {c : Chan} (C : Coils P c)
include C

theorem modChan {s : State} {f : Channel → Channel} (hf : ∀ q ∈ (f (s.chan c)).queue, q ∈ (s.chan c).queue)
    (hs : P s) : P (s.modChan c f) := C s s.arbiter.units f hf hs

theorem setPhase {s : State} (ph : Phase) (hs : P s) : P (s.setPhase c ph) := by
  rw [setPhase_eq]
  exact C s _ _ (fun _ hq => hq) hs

theorem stopPulse {s : State} (latch : Option FaultKind) (hs : P s) : P (s.stopPulse c latch) :=
  C.modChan (f := fun ch => { ch with pulse := ch.pulse.map _ }) (fun _ hq => hq) (C.setPhase .recycle hs)

end Coils

theorem Tells.dropRequest {P : State → Prop} {x : ReflexNo} (T : Tells P x) {s : State} (cause : DropCause)
    (hs : P s) : P (s.dropRequest x cause) :=
  T s _ (fun r => r.told_dropped _ cause) hs

/-! ## The parts of a change of mode -/

namespace KeptAsking

variable {P : State → Prop} (K : KeptAsking P) {s : State}
include K

/-! ### Owners -/

theorem modEntry (p : Port) (tag : Byte) (f : Entry → Entry) (hs : P s) : P (s.modEntry p tag f) :=
  K.calm _ _ (calm_table _) hs

theorem tellHeatWait {o : Owner} (ho : ∀ x, o = .reflex x → Tells P x) (hs : P s) : P (s.tellHeatWait o) := by
  cases o with
  | order p tag => exact K.modEntry p tag _ hs
  | reflex x => exact ho x rfl s _ (fun r => r.told_report _ _) hs

theorem tellRailWait {o : Owner} (ho : ∀ x, o = .reflex x → Tells P x) (hs : P s) : P (s.tellRailWait o) := by
  cases o with
  | order p tag => exact K.modEntry p tag _ hs
  | reflex x => exact ho x rfl s _ (fun r => r.told_report _ _) hs

theorem tellKick {o : Owner} (ho : ∀ x, o = .reflex x → Tells P x) (hs : P s) : P (s.tellKick o) := by
  cases o with
  | order p tag => exact K.modEntry p tag _ hs
  | reflex x => exact ho x rfl s _ (fun r => r.told_active _) hs

theorem tellRailWaits {l : List Member} (hl : ∀ m ∈ l, m ∈ s.arbiter.list) (hs : P s) : P (s.tellRailWaits l) := by
  have htells : ∀ m ∈ l, ∀ x, m.owner = .reflex x → Tells P x := fun m hm x hx =>
    K.tell s x hs (asks_of_list (hl m hm) hx)
  have hfold : ∀ (l : List Member) (s : State), (∀ m ∈ l, ∀ x, m.owner = .reflex x → Tells P x) → P s →
      P (s.tellRailWaits l) := by
    intro l
    induction l with
    | nil => exact fun _ _ hs => hs
    | cons m l ih =>
      exact fun s hl hs => ih _ (fun x hx => hl x (List.mem_cons_of_mem _ hx))
        (K.tellRailWait (hl m (List.mem_cons_self ..)) hs)
  exact hfold l s htells hs

/-! ### The channel queue and the list -/

theorem depart (c : Chan) (hs : P s) : P (s.depart false c) := by
  rw [depart_false]
  exact K.calm _ _ (calm_arbiter fun m hm x hx => asks_of_list (List.mem_filter.mp hm).1 hx) hs

theorem displace (c : Chan) (hs : P s) : P (s.displace false c) :=
  K.depart c (K.calm _ _ (calm_note c) (K.tellRailWaits (fun _ hm => (List.mem_filter.mp hm).1) hs))

theorem leaveQueue (c : Chan) (o : Owner) (hs : P s) : P (s.leaveQueue false c o) := by
  have hleft : ∀ front : Front, P (s.modChan c fun ch =>
      { ch with queue := ch.queue.filter fun q => q.owner != o, front := front }) := fun front =>
    K.calm _ _ (calm_modChan rfl (fun _ _ hpu _ => hpu) fun q hq _ _ => (List.mem_filter.mp hq).1) hs
  rw [State.leaveQueue]
  split
  · exact K.depart c (hleft _)
  · exact hleft _

theorem kickTest (c : Chan) (hs : P s) : P (s.kickTest false c) := by
  have hheat : P (s.updateHeat c) := K.calm _ _ (calm_note c) hs
  unfold State.kickTest
  split
  · exact hs
  · rename_i q rest hqueue
    have hq : q ∈ (s.chan c).queue := hqueue ▸ List.mem_cons_self ..
    dsimp only
    split
    · have hq' : q ∈ ((s.updateHeat c).chan c).queue := by rw [State.updateHeat, State.chan_modChan_self]; exact hq
      refine K.calm _ _ (show ((s.updateHeat c).joined c q).Calm _ from calm_note c)
        (K.calm (s.updateHeat c) _ (calm_arbiter fun m hm x hx => ?_) hheat)
      rcases List.mem_cons.mp ((insertMember_perm _ _).mem_iff.mp hm) with rfl | hm
      · exact asks_of_queue hq' hx
      · exact asks_of_list hm hx
    · exact K.tellHeatWait (fun x hx => K.tell s x hs (asks_of_queue hq hx)) (K.calm _ _ (calm_note c) hheat)

theorem insertOrder {q : QueueMember} {p : Port} {tag : Byte} (hq : q.owner = .order p tag) (c : Chan) (hs : P s) :
    P (s.modChan c fun ch => { ch with queue := insertQueue q ch.queue }) :=
  K.calm _ _ (calm_modChan rfl (fun _ _ hpu _ => hpu) fun x hx y hy => by
    rcases List.mem_cons.mp ((insertQueue_perm q _).mem_iff.mp hx) with rfl | hx
    · rw [hq] at hy; cases hy
    · exact hx) hs

theorem enqueue {q : QueueMember} {p : Port} {tag : Byte} (hq : q.owner = .order p tag) (c : Chan) (hs : P s) :
    P (Machine.enqueue false c q s).state := by
  unfold Machine.enqueue
  dsimp only
  split
  · exact K.displace c (K.insertOrder hq c hs)
  · exact K.insertOrder hq c hs

/-! ### The parts of an event -/

theorem offer (cs : List Chan) (hs : P s) : P (Machine.offer false cs s).state := by
  unfold Machine.offer
  split
  · exact hs
  · split
    · exact hs
    · rename_i c _ _ q rest hqueue
      split
      · exact K.kickTest c hs
      · dsimp only
        split
        · exact K.leaveQueue c _ hs
        · rename_i x hx
          exact (K.tell s x hs (asks_of_queue (hqueue ▸ List.mem_cons_self ..) hx)).dropRequest _
            (K.leaveQueue c _ hs)

theorem conclude (e : Entry) (status : EndStatus) (hs : P s) : P (s.conclude e status) := by
  obtain ⟨f, l, hshape, -⟩ := conclude_shape s e status
  rw [hshape]
  exact K.calm _ _ (calm_table _) (K.calm _ _ (calm_ports _) hs)

theorem finish (p : Port) (tag : Byte) (status : EndStatus) (hs : P s) :
    P (Machine.finish false p tag status s).state := by
  unfold Machine.finish
  split
  · exact hs
  · exact K.conclude _ _ (K.leaveQueue _ _ hs)

theorem ready (p : Port) (tag : Byte) (hs : P s) : P (Machine.ready p tag s).state := by
  unfold Machine.ready
  split
  · exact hs
  · split
    · exact hs
    · split
      · exact hs
      · exact K.modEntry _ _ _ hs

theorem arrive (p : Port) (tag : Byte) (hs : P s) : P (Machine.arrive false p tag s).state := by
  unfold Machine.arrive
  split
  · exact hs
  · dsimp only
    split
    · exact hs
    · exact hs
    · exact K.enqueue rfl _ (K.calm _ _ (calm_note _) (K.modEntry p tag _ hs))

theorem takeHead (p : Port) (hs : P s) : P (Machine.takeHead p s).state := by
  rcases takeHead_cases p s with h | ⟨slot, rest, -, h⟩ <;> rw [h]
  · exact hs
  · exact K.calm _ _ (calm_table _) (K.calm _ _ (calm_ports _) hs)

theorem run (w : Work) (hs : P s) : P (w.run false s).state := by
  cases w with
  | offer cs => exact K.offer cs hs
  | finish p tag status => exact K.finish p tag status hs
  | ready p tag => exact K.ready p tag hs
  | arrive p tag => exact K.arrive p tag hs
  | takes p => exact K.takeHead p hs

theorem doAll (ws : List Work) (hs : P s) : P (s.doAll false ws) :=
  doAll_induct false (I := fun _ t => P t) (fun w _ _ h => K.run w h) ws s hs

/-! ### The examination -/

theorem grant {m : Member} {rest : List Member} (hm : m ∈ s.arbiter.list) (hrest : ∀ x ∈ rest, x ∈ s.arbiter.list)
    (hidle : (s.chan m.channel).phase = .idle) (hs : P s) :
    P (State.grant { s with arbiter := { s.arbiter with list := rest } } m) := by
  have C := K.coil s m.channel hs (.inl hidle)
  have hlist : P { s with arbiter := { s.arbiter with list := rest } } :=
    K.calm _ _ (calm_arbiter fun x hx y hy => asks_of_list (hrest x hx) hy) hs
  exact K.tellKick (fun x hx => K.tell s x hs (asks_of_list hm hx))
    (C.modChan (fun q hq => (List.mem_filter.mp hq).1) (C.setPhase .kick hlist))

theorem examineFrom (l : List Member) :
    ∀ s : State, (∀ m ∈ l, m ∈ s.arbiter.list) → P s → P (Machine.examineFrom l s) := by
  induction l with
  | nil => exact fun _ _ hs => hs
  | cons m l ih =>
    intro s hl hs
    rw [Machine.examineFrom]
    split
    · rename_i hfit
      simp only [Bool.and_eq_true, beq_iff_eq] at hfit
      have hlist : (State.grant { s with arbiter := { s.arbiter with list := l } } m).arbiter.list = l := by
        unfold State.grant; cases m.owner <;> rfl
      exact ih _ (fun x hx => by rw [hlist]; exact hx) (K.grant (hl m (List.mem_cons_self ..))
        (fun x hx => hl x (List.mem_cons_of_mem _ hx)) hfit.2 hs)
    · exact hs

theorem offerAndExamine (since : Nat) (hs : P s) : P (s.offerAndExamine since) :=
  K.tellRailWaits (fun _ hm => (List.mem_filter.mp hm).1)
    (K.examineFrom _ _ (fun _ hm => hm) (K.doAll _ hs))

/-! ### A pulse that is cut -/

theorem startShort (c : Chan) (hs : P s) : P (s.startShort c) := by
  unfold State.startShort
  split
  · exact K.calm _ _ (calm_note c) hs
  · exact hs

theorem trainStep (c : Chan) (e : Entry) (faulted : Bool) (hs : P s) : P (s.trainStep c e faulted).2 := by
  unfold State.trainStep
  dsimp only
  repeat' split
  case isFalse.isFalse.isFalse.isFalse => exact K.insertOrder rfl c (K.modEntry _ _ _ hs)
  all_goals exact hs

theorem tellRecycleEnd {pu : Pulse} (howner : ∀ x, pu.owned = true → pu.owner = .reflex x → Tells P x) (c : Chan)
    (faulted : Bool) (hs : P s) : P (s.tellRecycleEnd c pu faulted).2 := by
  unfold State.tellRecycleEnd
  split
  · rename_i howned
    split
    · split
      · exact K.trainStep c _ faulted hs
      · exact hs
    · rename_i x hx
      exact howner x howned hx s _ (fun r => r.told_recycled _ _) hs
  · exact hs

theorem withdrawRequests (c : Chan) (cause : DropCause) (hs : P s) : P (s.withdrawRequests c cause) := by
  have hfold : ∀ (l : List QueueMember) (s : State), (∀ q ∈ l, ∀ x, q.owner = .reflex x → Tells P x) → P s →
      P (l.foldl (withdrawn cause) s) := by
    intro l
    induction l with
    | nil => exact fun _ _ hs => hs
    | cons q l ih =>
      refine fun s hl hs => ih _ (fun x hx => hl x (List.mem_cons_of_mem _ hx)) ?_
      unfold withdrawn
      split
      · exact hs
      · rename_i x hx
        exact (hl q (List.mem_cons_self ..) x hx).dropRequest cause hs
  rw [withdrawRequests_eq]
  exact hfold _ _ (fun q hq x hx => K.tell s x hs (asks_of_queue hq hx))
    (K.calm _ _ (calm_modChan rfl (fun _ _ hpu _ => hpu) fun q hq _ _ => (List.mem_filter.mp hq).1) hs)

theorem recycleOver {c : Chan} (C : Coils P c)
    (howner : ∀ pu x, (s.chan c).pulse = some pu → pu.owned = true → pu.owner = .reflex x → Tells P x) (hs : P s) :
    P (s.recycleOver c).2 := by
  unfold State.recycleOver
  split
  · exact hs
  · rename_i pu hpu
    split
    · exact K.tellRecycleEnd (fun x => howner pu x hpu) c false
        (K.startShort c (C.modChan (fun _ hq => hq) (C.setPhase .idle hs)))
    · exact K.calm _ _ (calm_ports _) (K.withdrawRequests c _ (K.tellRecycleEnd (fun x => howner pu x hpu) c true
        (K.startShort c (C.modChan (fun _ hq => hq) (C.setPhase .faulted hs)))))

theorem cutPulse {c : Chan} (C : Coils P c) {tell : State → State} (htell : ∀ s, P s → P (tell s))
    (howner : ∀ pu x, ((tell (s.stopPulse c none)).chan c).pulse = some pu → pu.owned = true →
      pu.owner = .reflex x → Tells P x) (hs : P s) : P (s.cutPulse c tell) := by
  have hstopped := htell _ (C.stopPulse none hs)
  unfold State.cutPulse
  dsimp only
  split
  · exact K.doAll _ (K.recycleOver C howner hstopped)
  · exact hstopped

theorem tellAbort (c : Chan) (hs : P s) : P (s.tellAbort c) := by
  unfold State.tellAbort
  split
  · exact K.modEntry _ _ _ hs
  · exact hs
  · exact hs

theorem abortPulse {c : Chan} (C : Coils P c) (hs : P s) : P (s.abortPulse c) := by
  refine K.cutPulse C (fun t ht => C.modChan (fun _ hq => hq) (K.tellAbort c ht)) (fun pu x hpu howned => ?_) hs
  rw [State.modPulse, State.chan_modChan_self] at hpu
  obtain ⟨pv, -, rfl⟩ := Option.map_eq_some_iff.mp hpu
  cases howned

theorem cutReflexPulse {c : Chan} {x : ReflexNo} (hruns : (s.chan c).runs (.reflex x) = true) (C : Coils P c)
    (T : Tells P x) (cause : Cause) (hs : P s) : P (s.cutReflexPulse c x cause) := by
  obtain ⟨-, pu, hpu, -, howner⟩ := runs_iff.mp hruns
  refine K.cutPulse C (fun t ht => T t _ (fun r => r.told_report _ _) ht) (fun pu' y hpu' _ howner' => ?_) hs
  have hstopped : ((s.stopPulse c none).chan c).pulse = some (pu.stopped s.now none) := by
    rw [stopPulse_eq hpu, State.chan_modChan_self]
  obtain rfl : pu.stopped s.now none = pu' := Option.some.inj (hstopped.symm.trans hpu')
  obtain rfl : x = y := Owner.reflex.inj (howner.symm.trans howner')
  exact T

/-! ### The orders and the entries -/

theorem abortEntry (status : EndStatus) (p : Port) (tag : Byte) (hs : P s) : P (s.abortEntry status p tag) := by
  unfold State.abortEntry
  split
  · exact hs
  · rename_i e _
    refine K.conclude _ _ ?_
    split
    · rename_i hruns
      exact K.abortPulse (K.coil s _ hs (.inr ⟨p, tag, hruns⟩)) hs
    · exact K.leaveQueue _ _ (K.calm _ _ (calm_disown _ p tag) hs)

theorem abortPorts (status : EndStatus) (ps : List Port) (hs : P s) : P (ps.foldl (State.abortPort status) s) :=
  KeptCore.foldl (fun _ p h =>
    KeptCore.foldl (fun _ (e : Entry) h => K.abortEntry status p e.order.tag h) _ _ h) ps s hs

/-- What a change of mode does with an entry, if the predicate survives what this entry is told and the cut of its
pulse. -/
theorem reflexModeChange {mode : Mode} {x : ReflexNo} (hmode : s.control.mode = mode) (T : Tells P x)
    (C : ∀ c, (s.chan c).runs (.reflex x) = true → Coils P c) (hs : P s) : P (s.reflexModeChange mode x) := by
  subst hmode
  have htell : ∀ f : Reflex → Reflex, (∀ r : Reflex, r.Told s.control.mode (f r)) → P (s.modReflex x f) :=
    fun f hf => T s f hf hs
  unfold State.reflexModeChange
  dsimp only
  split
  · exact htell _ fun r => r.told_rest _
  · exact htell _ fun r => r.told_rest _
  · split
    · exact hs
    · exact htell _ fun r => r.told_disarmed _
  · split
    · exact hs
    · refine T _ _ (fun r => r.told_disarmed _) ?_
      split
      · exact K.leaveQueue _ _ hs
      · exact hs
  · split
    · split
      · rename_i c _ _ _ hruns
        exact K.cutReflexPulse hruns (C _ hruns) T _ hs
      · exact hs
    · exact hs

theorem cutLive (C : ∀ t c, P t → t.control.rail = .off → (t.chan c).phase.isLive = true → Coils P c)
    (hoff : ∀ t, P t → t.control.rail = s.control.rail) (hs : P s) : P s.cutLive := by
  unfold State.cutLive
  split
  · rename_i hrail
    have hrail' : s.control.rail = .off := by simpa using hrail
    refine KeptCore.foldl (fun t c ht => ?_) _ _ hs
    split
    · rename_i hlive
      exact K.abortPulse (C t c ht ((hoff t ht).trans hrail') hlive) ht
    · exact ht
  · exact hs

theorem redrive (l : LampNo) (hs : P s) : P (s.redrive l) := by
  have hlamps : ∀ v, P { s with lampUnit := v } := fun v => K.calm _ _ (calm_lamps v) hs
  have hstart : P (s.startLamp l) := by
    unfold State.startLamp
    dsimp only
    repeat' split
    · exact hlamps _
    · exact hs
    · exact hlamps _
    · exact hlamps _
  unfold State.redrive
  dsimp only
  refine K.calm _ _ (calm_lamps _) ?_
  repeat' split
  · exact hs
  · exact hstart
  · exact hlamps _
  · exact hs

theorem redriveAll (which : LampNo → Bool) (hs : P s) : P (s.redriveAll which) :=
  KeptCore.foldl (fun _ l h => K.redrive l h) _ _ hs

end KeptAsking

end Sys2Proof.Machine

/-!
SUPPORT. A change of mode around one reflex entry: what goes before the entry's own part in it, that part, and what
follows.
-/

namespace Sys2Proof.Machine

/-! ## Before the entry's own part, and after it -/

/-- A predicate that survives all that a change of mode does but one entry's own part. -/
structure KeptBeside (x : ReflexNo) (ct : Control) (P : State → Prop) : Prop extends KeptAsking P where
  control : ∀ s, P s → s.control = ct
  others : ∀ y, y ≠ x → Tells P y
  coils : ∀ s y c, P s → y ≠ x → (s.chan c).runs (.reflex y) = true → Coils P c

/-- The state in which the takes of a change of mode have been made, and the reflex table is told next. -/
def State.drawn (s : State) (mode : Mode) : State :=
  (s.aborted mode).doAll false ((abortedPorts mode).map Work.takes)

namespace KeptBeside

variable {x : ReflexNo} {ct : Control} {P : State → Prop} (K : KeptBeside x ct P)
include K

theorem reflexes {l : List ReflexNo} (hl : x ∉ l) {s : State} (hs : P s) :
    P (l.foldl (State.reflexModeChange ct.mode) s) := by
  induction l generalizing s with
  | nil => exact hs
  | cons y l ih =>
    have hy : y ≠ x := fun h => hl (h ▸ List.mem_cons_self ..)
    exact ih (fun h => hl (List.mem_cons_of_mem _ h)) (K.reflexModeChange (congrArg Control.mode (K.control s hs))
      (K.others y hy) (fun c hruns => K.coils s y c hs hy hruns) hs)

/-- What goes before the entry's own part. -/
theorem before {l : List ReflexNo} (hl : x ∉ l) {s : State} (hs : P (s.marked ct.mode)) :
    P (l.foldl (State.reflexModeChange ct.mode) (s.drawn ct.mode)) :=
  K.reflexes hl (K.doAll _ (K.abortPorts _ _ hs))

/-- A change of mode leaves the predicate, if the entry's own part brings it about and it survives the cut of the pulses
that are still live. -/
theorem changeMode (hlive : ∀ t c, P t → ct.rail = .off → (t.chan c).phase.isLive = true → Coils P c) {s : State}
    (hstep : ∀ before : List ReflexNo, x ∉ before →
      P ((before.foldl (State.reflexModeChange ct.mode) (s.drawn ct.mode)).reflexModeChange ct.mode x)) :
    P (s.changeMode ct.mode) := by
  have hnodup : (allFin 16).Nodup := List.nodup_ofFn.mpr fun _ _ h => h
  obtain ⟨before, after, hsplit⟩ := List.append_of_mem (show x ∈ allFin 16 from List.mem_ofFn.mpr ⟨x, rfl⟩)
  rw [hsplit, List.nodup_middle, List.nodup_cons, List.mem_append, not_or] at hnodup
  obtain ⟨⟨hbefore, hafter⟩, -⟩ := hnodup
  have htold : P ((allFin 16).foldl (State.reflexModeChange ct.mode) (s.drawn ct.mode)) := by
    rw [hsplit, List.foldl_append]
    exact K.reflexes hafter (hstep before hbefore)
  have hcut := K.cutLive (fun t c ht hrail => hlive t c ht (by rw [← K.control t ht]; exact hrail))
    (fun t ht => by rw [K.control t ht, K.control _ htold]) htold
  have hoffered := K.offerAndExamine s.arbiter.joins hcut
  rw [changeMode_eq, State.settled]
  refine K.calm _ _ (calm_ports _) ?_
  split
  · exact K.redriveAll _ hoffered
  · exact hoffered

end KeptBeside

/-! ## An entry that does not ask -/

/-- A reflex entry that does not ask, as it stands. -/
structure State.Quiet (x : ReflexNo) (r : Reflex) (ct : Control) (s : State) : Prop where
  asks : ¬s.Asks x
  entry : s.reflexAt x = r
  control : s.control = ct

theorem quiet_coils (x : ReflexNo) (r : Reflex) (ct : Control) (c : Chan) : Coils (State.Quiet x r ct) c := by
  intro s units f hqueue hs
  refine ⟨fun hasks => hs.asks (hasks.elim (fun ⟨d, q, hq, howner⟩ => ?_) .inr), hs.entry, hs.control⟩
  rw [State.chan_modChan] at hq
  split at hq
  · exact asks_of_queue (hqueue q hq) howner
  · exact asks_of_queue hq howner

theorem kept_quiet (x : ReflexNo) (r : Reflex) (ct : Control) : KeptBeside x ct (State.Quiet x r ct) where
  calm s t ht hs :=
    ⟨fun h => hs.asks (ht.asks x h), by rw [State.reflexAt, ht.reflexes]; exact hs.entry, ht.control.trans hs.control⟩
  tell s y hs hasks := fun t f _ ht =>
    ⟨ht.asks, by
      rw [State.reflexAt_modReflex_ne _ (fun h : y = x => hs.asks (h ▸ hasks))]; exact ht.entry, ht.control⟩
  coil _ c _ _ := quiet_coils x r ct c
  control _ hs := hs.control
  others y hy := fun t f _ ht => ⟨ht.asks, by rw [State.reflexAt_modReflex_ne _ hy]; exact ht.entry, ht.control⟩
  coils _ _ c _ _ _ := quiet_coils x r ct c

/-! ## An entry's pulse -/

/-- A channel in a state with a pulse. -/
structure State.Drives (c : Chan) (phase : Phase) (pu : Pulse) (ct : Control) (now : Nat) (s : State) : Prop where
  phase : (s.chan c).phase = phase
  pulse : (s.chan c).pulse = some pu
  control : s.control = ct
  now : s.now = now

section Drives

variable {c : Chan} {phase : Phase} {pu : Pulse} {ct : Control} {now : Nat}

theorem drives_coils {d : Chan} (hd : d ≠ c) : Coils (State.Drives c phase pu ct now) d := by
  intro s units f _ hs
  have hchan : ((s.withUnits units).modChan d f).chan c = s.chan c := State.chan_modChan_ne _ hd f
  exact ⟨by rw [hchan]; exact hs.phase, by rw [hchan]; exact hs.pulse, hs.control, hs.now⟩

/-- No other owner's live pulse is on the channel of a pulse. -/
theorem State.Drives.ne_of_runs {s : State} (hs : s.Drives c phase pu ct now) {d : Chan} {o : Owner}
    (hruns : (s.chan d).runs o = true) (ho : o ≠ pu.owner) : d ≠ c := by
  rintro rfl
  obtain ⟨-, pu', hpu', -, howner⟩ := runs_iff.mp hruns
  obtain rfl : pu = pu' := Option.some.inj (hs.pulse.symm.trans hpu')
  exact ho howner.symm

theorem kept_drives {x : ReflexNo} (howner : pu.owner = .reflex x) (hphase : phase ≠ .idle) :
    KeptBeside x ct (State.Drives c phase pu ct now) where
  calm s t ht hs :=
    ⟨(ht.phase c).trans hs.phase, ht.pulse c pu x hs.pulse howner, ht.control.trans hs.control, ht.now.trans hs.now⟩
  tell _ _ _ _ := fun _ _ _ ht => { ht with }
  coil s d hs hd := drives_coils (by
    rcases hd with hidle | ⟨p, tag, hruns⟩
    · rintro rfl
      exact hphase (hs.phase.symm.trans hidle)
    · exact hs.ne_of_runs hruns (by rw [howner]; nofun))
  control _ hs := hs.control
  others _ _ := fun _ _ _ ht => { ht with }
  coils _ _ _ hs hy hruns := drives_coils (hs.ne_of_runs hruns (by rw [howner]; exact fun h => hy (Owner.reflex.inj h)))

end Drives

/-! ## What an entry keeps whatever it is told -/

/-- A property of one entry. -/
def State.Holds (x : ReflexNo) (p : Reflex → Prop) (ct : Control) (s : State) : Prop :=
  p (s.reflexAt x) ∧ s.control = ct

section Holds

variable {p : Reflex → Prop} {ct : Control} (hp : ∀ a b : Reflex, a.Told ct.mode b → p a → p b)
include hp

theorem holds_tells (x y : ReflexNo) : Tells (State.Holds x p ct) y := by
  rintro s f hf ⟨hs, hct⟩
  refine ⟨?_, hct⟩
  by_cases hy : y = x
  · subst hy
    rw [State.reflexAt_modReflex_self]
    exact hp _ _ (hct ▸ hf _) hs
  · rw [State.reflexAt_modReflex_ne _ hy]
    exact hs

theorem kept_holds (x : ReflexNo) : KeptBeside x ct (State.Holds x p ct) where
  calm s t ht hs := ⟨by rw [State.reflexAt, ht.reflexes]; exact hs.1, ht.control.trans hs.2⟩
  tell _ y _ _ := holds_tells hp x y
  coil _ _ _ _ := fun _ _ _ _ hs => hs
  control _ hs := hs.2
  others y _ := holds_tells hp x y
  coils _ _ _ _ _ _ := fun _ _ _ _ hs => hs

end Holds

/-! ## The mode entered -/

theorem railFor_mode (s : State) (left entered : Mode) : (s.railFor left entered).control.mode = s.control.mode := by
  unfold State.railFor
  split
  · rfl
  · rfl
  · split <;> rfl

theorem railFor_reflexes (s : State) (left entered : Mode) : (s.railFor left entered).reflexes = s.reflexes := by
  unfold State.railFor
  split
  · rfl
  · rfl
  · split <;> rfl

theorem entered_mode (s : State) (mode : Mode) : (s.entered mode).control.mode = mode := railFor_mode _ _ _

/-- With the marks made a change of mode has the mode and the rail that it enters, and has told no entry yet. -/
theorem marked_rest (s : State) (mode : Mode) :
    (s.marked mode).control = (s.entered mode).control ∧ (s.marked mode).reflexes = s.reflexes
      ∧ (s.marked mode).now = s.now ∧ (∀ c, ((s.marked mode).chan c).phase = (s.chan c).phase)
      ∧ (∀ c, ((s.marked mode).chan c).pulse = (s.chan c).pulse) ∧ ∀ x, (s.marked mode).Asks x ↔ s.Asks x := by
  have hsame := sameOrders_entered s mode
  have hchan : ∀ c, (s.marked mode).chan c = (s.entered mode).chan c := fun c => (marked_chan s mode c).1
  obtain ⟨-, hnow, hlist, -⟩ := marked_chan s mode 0
  obtain ⟨v, hrest⟩ := markRings_rest (abortMark mode) (abortedPorts mode) (s.entered mode)
  refine ⟨?_, ?_, hnow, fun c => by rw [hchan, hsame.phase], fun c => by rw [hchan, hsame.pulse], fun x => ?_⟩
  · rw [State.marked, hrest]
  · rw [State.marked, hrest]
    exact railFor_reflexes _ _ _
  · simp only [State.Asks, hchan, hsame.queue, hlist]

/-! ## The entry's own part -/

section OwnPart

variable {s : State} {x : ReflexNo} {mode : Mode}

/-- An entry with no work in hand is ARMED or DISARMED by the mode (R119). -/
theorem reflexModeChange_of_rest (h : (s.reflexAt x).state = .disarmed ∨ (s.reflexAt x).state = .armed) :
    s.reflexModeChange mode x = s.modReflex x fun r => { r with state := r.restState mode } := by
  rcases h with h | h <;> simp only [State.reflexModeChange, h]

/-- A SPENT entry that stays armed stays SPENT (R119). -/
theorem reflexModeChange_of_spent (h : (s.reflexAt x).state = .spent) :
    s.reflexModeChange mode x =
      if (s.reflexAt x).isArmed mode then s else s.modReflex x fun r => { r with state := .disarmed } := by
  simp only [State.reflexModeChange, h]

/-- A WAITING entry that stops being armed has its request withdrawn (R125). -/
theorem reflexModeChange_of_waiting {c : Chan} (h : (s.reflexAt x).state = .waiting)
    (hc : channelOf (s.reflexAt x).channel = some c) (harmed : (s.reflexAt x).isArmed mode = false) :
    s.reflexModeChange mode x =
      (s.leaveQueue false c (.reflex x)).modReflex x fun r => { r with state := .disarmed } := by
  simp only [State.reflexModeChange, h, hc, harmed, Bool.false_eq_true, if_false]

/-- A live pulse that the mode cuts ends with its cause (R125, R131). -/
theorem reflexModeChange_of_cut {c : Chan} {cause : Cause} (h : (s.reflexAt x).state = .active)
    (hc : channelOf (s.reflexAt x).channel = some c) (hruns : (s.chan c).runs (.reflex x) = true)
    (hcause : (s.reflexAt x).cutCause mode = some cause) :
    s.reflexModeChange mode x = s.cutReflexPulse c x cause := by
  simp only [State.reflexModeChange, h, hc, hcause, hruns, if_true]

/-- A live pulse that the mode does not cut, and a recycle, run on (R125). -/
theorem reflexModeChange_of_active {c : Chan} (h : (s.reflexAt x).state = .active)
    (hc : channelOf (s.reflexAt x).channel = some c)
    (hon : (s.chan c).runs (.reflex x) = false ∨ (s.reflexAt x).cutCause mode = none) :
    s.reflexModeChange mode x = s := by
  rcases hon with hon | hon
  · cases hcause : (s.reflexAt x).cutCause mode <;> simp [State.reflexModeChange, h, hc, hcause, hon]
  · simp only [State.reflexModeChange, h, hc, hon]

end OwnPart

/-! ## The table in TILT -/

/-- No entry is armed in TILT, IDLE, SERVICE and ALARM (R119). -/
theorem Reflex.isArmed_tilt (r : Reflex) : r.isArmed .tilt = false := by simp [Reflex.isArmed]

/-- An entry with no work in hand but a pulse gets none in TILT. -/
theorem Reflex.Told.rests {a b : Reflex} (h : a.Told .tilt b) (ha : a.state = .disarmed ∨ a.state = .active) :
    b.state = .disarmed ∨ b.state = .active := by
  rcases h.state a.isArmed_tilt with hb | hb | hb <;> rw [hb]
  · exact ha
  · exact .inr rfl
  · exact .inl rfl

/-- In TILT no entry is armed, so that one that is told of the mode has no work in hand but a pulse (R119). -/
theorem reflexModeChange_rests {x : ReflexNo} {ct : Control} (hmode : ct.mode = .tilt) {s : State}
    (hs : s.control = ct) :
    (s.reflexModeChange .tilt x).Holds x (fun r => r.state = .disarmed ∨ r.state = .active) ct := by
  have hp : ∀ a b : Reflex, a.Told ct.mode b → (a.state = .disarmed ∨ a.state = .active) →
      b.state = .disarmed ∨ b.state = .active := fun a b h => (hmode ▸ h).rests
  cases hstate : (s.reflexAt x).state with
  | active =>
    exact (kept_holds hp x).reflexModeChange (by rw [hs, hmode]) (holds_tells hp x x)
      (fun _ _ => fun _ _ _ _ h => h) ⟨.inr hstate, hs⟩
  | disarmed =>
    rw [reflexModeChange_of_rest (.inl hstate)]
    exact ⟨.inl (by rw [State.reflexAt_modReflex_self]; simp [Reflex.restState, Reflex.isArmed_tilt]), hs⟩
  | armed =>
    rw [reflexModeChange_of_rest (.inr hstate)]
    exact ⟨.inl (by rw [State.reflexAt_modReflex_self]; simp [Reflex.restState, Reflex.isArmed_tilt]), hs⟩
  | spent =>
    rw [reflexModeChange_of_spent hstate, Reflex.isArmed_tilt, if_neg Bool.false_ne_true]
    exact ⟨.inl (by rw [State.reflexAt_modReflex_self]), hs⟩
  | waiting =>
    have hleft : ∀ c, (s.leaveQueue false c (.reflex x)).control = ct := fun c => by
      rw [leaveQueue_false]
      split <;> exact hs
    simp only [State.reflexModeChange, hstate, Reflex.isArmed_tilt, Bool.false_eq_true, if_false]
    refine ⟨.inl (by rw [State.reflexAt_modReflex_self]), ?_⟩
    rw [State.modReflex_control]
    split
    · exact hleft _
    · exact hs

/-- A change to TILT leaves each entry with no work in hand but a pulse, and its switch as it was (R119, R133). -/
theorem changeMode_tilt_entry (s : State) (x : ReflexNo) :
    (((s.changeMode .tilt).reflexAt x).state = .disarmed ∨ ((s.changeMode .tilt).reflexAt x).state = .active)
      ∧ ((s.changeMode .tilt).reflexAt x).switch = (s.reflexAt x).switch := by
  obtain ⟨hcontrol, hreflexes, -⟩ := marked_rest s .tilt
  generalize hct : (s.entered .tilt).control = ct at hcontrol
  have hmode : ct.mode = .tilt := hct ▸ entered_mode s .tilt
  have Kswitch := kept_holds (p := fun r => r.switch = (s.reflexAt x).switch) (ct := ct)
    (fun a b h ha => by rw [h.fields]; exact ha) x
  have Krests := kept_holds (p := fun r => r.state = .disarmed ∨ r.state = .active) (ct := ct)
    (fun a b h => (hmode ▸ h).rests) x
  have hmarked : (s.marked .tilt).Holds x (fun r => r.switch = (s.reflexAt x).switch) ct :=
    ⟨congrArg (fun reflexes : Vector Reflex 16 => reflexes[x].switch) hreflexes, hcontrol⟩
  rw [← hmode] at hmarked ⊢
  have hbefore := fun before (hx : x ∉ before) => Kswitch.before hx hmarked
  refine ⟨(Krests.changeMode (fun _ _ _ _ _ => fun _ _ _ _ h => h) fun before hx => ?_).1,
    (Kswitch.changeMode (fun _ _ _ _ _ => fun _ _ _ _ h => h) fun before hx => ?_).1⟩
  · have h := reflexModeChange_rests (x := x) hmode (hbefore before hx).2
    rw [hmode] at h ⊢
    exact h
  · exact Kswitch.reflexModeChange (by rw [(hbefore before hx).2])
      (holds_tells (fun a b h ha => by rw [h.fields]; exact ha) x x) (fun _ _ => fun _ _ _ _ h => h) (hbefore before hx)

/-! ## An entry with no work in hand -/

/-- The state in which the takes have been made and some other entries have been told, for an entry that does not
ask. -/
theorem quiet_before {s : State} {x : ReflexNo} (hasks : ¬s.Asks x) {mode : Mode} {before : List ReflexNo}
    (hx : x ∉ before) :
    (before.foldl (State.reflexModeChange mode) (s.drawn mode)).Quiet x (s.reflexAt x) (s.entered mode).control := by
  obtain ⟨hcontrol, hreflexes, -, -, -, hmarked⟩ := marked_rest s mode
  have h := (kept_quiet x (s.reflexAt x) (s.entered mode).control).before hx (s := s)
    ⟨fun h => hasks ((hmarked x).mp (by rw [← entered_mode s mode]; exact h)), by
      rw [entered_mode, State.reflexAt, hreflexes]; rfl, by rw [entered_mode, hcontrol]⟩
  rw [entered_mode] at h
  exact h

/-- What a change of mode leaves of an entry that does not ask, from the entry's own part in it. -/
theorem changeMode_quiet {s : State} {x : ReflexNo} {mode : Mode} {r : Reflex} (hasks : ¬s.Asks x)
    (hstep : ∀ t : State, t.Quiet x (s.reflexAt x) (s.entered mode).control →
      (t.reflexModeChange mode x).Quiet x r (s.entered mode).control) :
    (s.changeMode mode).Quiet x r (s.entered mode).control := by
  have h := (kept_quiet x r (s.entered mode).control).changeMode (fun _ c _ _ _ => quiet_coils x r _ c) (s := s)
    fun before hx => by rw [entered_mode]; exact hstep _ (quiet_before hasks hx)
  rw [entered_mode] at h
  exact h

/-- An entry with no work in hand is ARMED or DISARMED by the mode entered, and told nothing else (R119). -/
theorem changeMode_of_rest {s : State} {x : ReflexNo} (hasks : ¬s.Asks x)
    (hstate : (s.reflexAt x).state = .disarmed ∨ (s.reflexAt x).state = .armed) (mode : Mode) :
    (s.changeMode mode).reflexAt x = { s.reflexAt x with state := (s.reflexAt x).restState mode } := by
  refine (changeMode_quiet hasks fun t ht => ?_).entry
  rw [reflexModeChange_of_rest (by rw [ht.entry]; exact hstate)]
  exact ⟨ht.asks, by rw [State.reflexAt_modReflex_self, ht.entry], ht.control⟩

/-- A SPENT entry that stays armed stays SPENT, and is told nothing else (R119). -/
theorem changeMode_of_spent {s : State} {x : ReflexNo} (hasks : ¬s.Asks x) (hstate : (s.reflexAt x).state = .spent)
    (mode : Mode) :
    (s.changeMode mode).reflexAt x =
      { s.reflexAt x with state := if (s.reflexAt x).isArmed mode then .spent else .disarmed } := by
  refine (changeMode_quiet hasks fun t ht => ?_).entry
  rw [reflexModeChange_of_spent (by rw [ht.entry]; exact hstate), ht.entry]
  split
  · exact ⟨ht.asks, by rw [ht.entry, ← hstate], ht.control⟩
  · exact ⟨ht.asks, by rw [State.reflexAt_modReflex_self, ht.entry], ht.control⟩

end Sys2Proof.Machine

/-!
SUPPORT. A debounce expiry that concerns one reflex entry.
-/

namespace Sys2Proof.Machine

/-! ## The record of the edge -/

/-- The part of a record that names a reflex entry (R120). -/
def Reflex.part (r : Reflex) (x : ReflexNo) (act : ReflexAct) : ReflexPart :=
  ⟨x, act, r.report.heatWaited, r.report.railWaited, r.report.drop.isSome⟩

/-- The record of an edge that concerns one entry (R114, R120). -/
def State.edgeRecord (s : State) (n : SwitchNo) (x : ReflexNo) (act : ReflexAct) : SwitchEvent :=
  ⟨n, !(s.switchAt n).closed, s.time, none, some ((s.reflexAt x).part x act)⟩

theorem filter_owner_ne (l : List QueueMember) (o : Owner) :
    l.filter (fun q => decide (q.owner ≠ o)) = l.filter fun q => q.owner != o :=
  List.filter_congr fun q _ => by rw [Bool.eq_iff_iff]; simp

theorem filter_channel_ne (l : List Member) (c : Chan) :
    l.filter (fun m => decide (m.channel ≠ c)) = l.filter fun m => m.channel != c :=
  List.filter_congr fun m _ => by rw [Bool.eq_iff_iff]; simp

/-! ## The expiry -/

/-- A debounce expiry that is due, of the switch of one entry alone. -/
structure State.EdgeOf (s : State) (n : SwitchNo) (x : ReflexNo) (expiry : Nat) : Prop where
  powered : s.powered = true
  debounce : (s.switchAt n).debounceAt = some expiry
  due : expiry ≤ s.now
  switch : (s.reflexAt x).switch = n
  others : ∀ y, y ≠ x → (s.reflexAt y).switch ≠ n

/-- The expiry leaves a state with the edge's record in each subscribed port (R114, R115). -/
def State.EdgeLeaves (s : State) (n : SwitchNo) (x : ReflexNo) (u : State) (act : ReflexAct) : Prop :=
  ∃ t, exec (.debounceExpiry n) s = .next t ∧ t = State.decideLines { u with ports := t.ports }
    ∧ ∀ p, t.port p = PortState.decideLine u.control.mode ((u.port p).noted (s.edgeRecord n x act))

namespace State.EdgeOf

variable {s u : State} {n : SwitchNo} {x : ReflexNo} {expiry : Nat} {act : ReflexAct} (h : s.EdgeOf n x expiry)
  (hconcerned : (s.reflexAt x).concerned n (!(s.switchAt n).closed) = true)
include h hconcerned

/-- The entry acts, and the records say what it did with the report it then has (R120). -/
theorem acts (hact : (s.turned n).reflexAct x (!(s.switchAt n).closed) = (act, u))
    (hkept : ∀ y, y ≠ x → (u.reflexAt y).switch = (s.reflexAt y).switch) :
    ∃ t, exec (.debounceExpiry n) s = .next t ∧ t = State.decideLines { u with ports := t.ports }
      ∧ ∀ p, t.port p = PortState.decideLine u.control.mode
        ((u.port p).noted ⟨n, !(s.switchAt n).closed, s.time, none, some ((u.reflexAt x).part x act)⟩) :=
  exec_debounce_of_edge h.powered h.debounce h.due
    (reflexEdge_of_alone (s := s.turned n) hconcerned hact
      (fun y hy => Reflex.concerned_of_switch_ne (h.others y hy) _)
      (fun y hy => Reflex.concerned_of_switch_ne (by rw [hkept y hy]; exact h.others y hy) _))

/-- An action whose only write of the table is one of the entry that keeps what its record says. -/
theorem leaves_write {f : Reflex → Reflex} (hreflexes : u.reflexes = s.reflexes)
    (hact : (s.turned n).reflexAct x (!(s.switchAt n).closed) = (act, u.modReflex x f))
    (hpart : (f (s.reflexAt x)).part x act = (s.reflexAt x).part x act) :
    s.EdgeLeaves n x (u.modReflex x f) act := by
  have hentry : ∀ y, u.reflexAt y = s.reflexAt y := fun y => by rw [State.reflexAt, hreflexes]; rfl
  have hports := h.acts hconcerned hact
    (fun y hy => by rw [State.reflexAt_modReflex_ne _ hy.symm, hentry])
  rw [State.reflexAt_modReflex_self, hentry, hpart] at hports
  exact hports

theorem leaves_ignored (hact : (s.turned n).reflexAct x (!(s.switchAt n).closed) = (.ignored, s.turned n)) :
    s.EdgeLeaves n x (s.turned n) .ignored :=
  h.acts hconcerned hact fun _ _ => rfl

end State.EdgeOf

/-! ## A FLIP entry's OPEN edge (R122) -/

section Opens

variable {s : State} {n : SwitchNo} {x : ReflexNo} {expiry : Nat} (h : s.EdgeOf n x expiry)
  (hclosed : (!(s.switchAt n).closed) = false) (hflip : (s.reflexAt x).action = .flip)
include h hclosed hflip

theorem concerned_of_opens (hbusy : (s.reflexAt x).state.busy = true) :
    (s.reflexAt x).concerned n (!(s.switchAt n).closed) = true :=
  hclosed ▸ Reflex.concerned_of_open h.switch hflip hbusy

omit h in
theorem reflexAct_of_opens :
    (s.turned n).reflexAct x (!(s.switchAt n).closed) = (s.turned n).openEdge x :=
  hclosed ▸ reflexAct_of_open (s := s.turned n) hflip

theorem opens_spent (hstate : (s.reflexAt x).state = .spent) :
    s.EdgeLeaves n x ((s.turned n).modReflex x fun r => { r with state := .armed }) .rearm :=
  h.leaves_write (concerned_of_opens h hclosed hflip (by rw [hstate]; rfl)) rfl
    ((reflexAct_of_opens hclosed hflip).trans (openEdge_of_spent hstate)) rfl

theorem opens_waiting {u : State} {f : Reflex → Reflex} (hstate : (s.reflexAt x).state = .waiting)
    (hreflexes : u.reflexes = s.reflexes) (hleft : (s.turned n).withdraw x = u.modReflex x f)
    (hreport : ∀ r : Reflex, (f r).report = r.report) : s.EdgeLeaves n x (u.modReflex x f) .withdraw :=
  h.leaves_write (concerned_of_opens h hclosed hflip (by rw [hstate]; rfl)) hreflexes
    ((reflexAct_of_opens hclosed hflip).trans
      ((openEdge_of_waiting (s := s.turned n) hstate).trans (congrArg (Prod.mk _) hleft)))
    (by simp only [Reflex.part, hreport])

variable {c : Chan} (hc : channelOf (s.reflexAt x).channel = some c)
include hc

theorem opens_recycle (hstate : (s.reflexAt x).state = .active) (hphase : (s.chan c).phase = .recycle) :
    s.EdgeLeaves n x (s.turned n) .ignored :=
  h.leaves_ignored (concerned_of_opens h hclosed hflip (by rw [hstate]; rfl))
    ((reflexAct_of_opens hclosed hflip).trans (openEdge_of_recycle (s := s.turned n) hstate hc hphase))

theorem opens_live (hstate : (s.reflexAt x).state = .active) {pu : Pulse} (hlive : (s.chan c).phase.isLive = true)
    (hpu : (s.chan c).pulse = some pu) (howner : pu.owner = .reflex x) (howned : pu.owned = true) {u : State}
    {f : Reflex → Reflex} (hreflexes : u.reflexes = s.reflexes)
    (hend : (s.turned n).endPulse c .release none = u.modReflex x f)
    (hpart : (f (s.reflexAt x)).part x .release = (s.reflexAt x).part x .release) :
    s.EdgeLeaves n x (u.modReflex x f) .release := by
  have hruns : ((s.turned n).chan c).runs (.reflex x) = true := runs_iff.mpr ⟨hlive, pu, hpu, howned, howner⟩
  exact h.leaves_write (concerned_of_opens h hclosed hflip (by rw [hstate]; rfl)) hreflexes
    ((reflexAct_of_opens hclosed hflip).trans
      ((openEdge_of_live (s := s.turned n) hstate hc hruns).trans (congrArg (Prod.mk _) hend))) hpart

end Opens

/-! ## The edge that tilts the table -/

/-- A change of mode leaves the switch records of the ports. -/
theorem kept_portSwitches (s : State) : KeptCore fun t => ∀ p, (t.port p).switches = (s.port p).switches where
  ports _ v hv h q := by
    obtain ⟨-, -, -, hswitches, -⟩ := hv q
    exact hswitches.trans (h q)
  table _ _ _ h := h
  coil _ _ _ _ _ _ _ h := h
  note _ _ _ _ _ h := h
  heat _ _ h := h
  list _ _ _ h := h
  reflexes _ _ h := h
  lamps _ _ _ h := h
  free _ _ h := h

/-- A change from GAME to TILT leaves the rail. -/
theorem railFor_game_tilt (s : State) : s.railFor .game .tilt = s := rfl

/-- An ARMED TILT entry's trigger edge in GAME (R119, R133). -/
theorem tilt_of_edge {s : State} {n : SwitchNo} {x : ReflexNo} {expiry : Nat} (h : s.EdgeOf n x expiry)
    (hedge : (s.reflexAt x).openEdge = (s.switchAt n).closed) (haction : (s.reflexAt x).action = .tilt)
    (hstate : (s.reflexAt x).state = .armed) (hmode : s.control.mode = .game) :
    ∃ t, exec (.debounceExpiry n) s = .next t ∧ t.control.mode = .tilt ∧ t.control.rail = s.control.rail
      ∧ (∀ p, (t.port p).attention.modeEdge = true)
      ∧ (∀ y, (t.reflexAt y).state = .disarmed ∨ (t.reflexAt y).state = .active)
      ∧ (¬s.Asks x → ∀ p, (t.port p).switches = ((s.port p).noted (s.edgeRecord n x .trigger)).switches) := by
  let u := (s.turned n).changeMode .tilt
  have hgame : (s.turned n).control.mode = .game := hmode
  have hact : (s.turned n).reflexAct x (!(s.switchAt n).closed) = (.trigger, u) :=
    (reflexAct_of_trigger_edge (s := s.turned n) (.inl (by
      show (s.reflexAt x).action ≠ _
      rw [haction]; nofun))).trans ((triggerEdge_of_tilt (s := s.turned n) haction hstate).trans (if_pos hmode))
  have hconcerned : (s.reflexAt x).concerned n (!(s.switchAt n).closed) = true :=
    Reflex.concerned_of_trigger h.switch (by rw [hedge, Bool.not_not]) (by rw [hstate]; nofun)
  have hcontrol : u.control = { s.control with mode := .tilt } := by
    have hsettings := (changeMode_sameSettings (s.turned n) .tilt).control
    rw [hgame, railFor_game_tilt] at hsettings
    exact hsettings
  have hswitches : ∀ p, (u.port p).switches = (s.port p).switches :=
    (kept_portSwitches s).changeMode (s.turned n) .tilt (by rw [hgame, railFor_game_tilt]; exact fun _ => rfl)
  obtain ⟨t, hexec, ht, hports⟩ := h.acts hconcerned hact fun y _ => (changeMode_tilt_entry (s.turned n) y).2
  have htcontrol : t.control = u.control := by rw [ht]; rfl
  have htentry : ∀ y, t.reflexAt y = u.reflexAt y := fun y => by rw [ht]; rfl
  refine ⟨t, hexec, by rw [htcontrol, hcontrol], by rw [htcontrol, hcontrol],
    fun p => by rw [hports]; exact changeMode_modeEdge (s.turned n) .tilt p,
    fun y => by rw [htentry]; exact (changeMode_tilt_entry (s.turned n) y).1, fun hasks p => ?_⟩
  have hentry : u.reflexAt x = _ := changeMode_of_rest (s := s.turned n) hasks (.inr hstate) .tilt
  have hpart : (u.reflexAt x).part x .trigger = (s.reflexAt x).part x .trigger := by rw [hentry]; rfl
  rw [hports, hpart]
  simp only [PortState.noted, PortState.decideLine, hswitches]
  rfl

end Sys2Proof.Machine

/-!
The edges of a reflex entry that raise no request.
-/

namespace Sys2Proof.Machine

/-- Settles O50: the edge concerns the entry alone (`State.EdgeOf`), so that the expiry is the entry's action, with its
record in each subscribed port; the tilt is a change of mode, which `tilt_of_edge` follows. -/
theorem flipAndTiltEdges : Obligations.FlipAndTiltEdges := by
  intro s n x expiry hp hat hle hswitch hothers r close s1 record becomes
  have h : s.EdgeOf n x expiry := ⟨hp, hat, hle, hswitch, hothers⟩
  refine ⟨fun hclose hflip => ⟨opens_spent h hclose hflip, fun c hc => ⟨opens_recycle h hclose hflip hc,
    fun pu hstate hlive hpu howner howned hlength hlist => ?_, fun hstate hbusy => ?_,
    fun q hstate hphase hqueue howner => ?_⟩⟩,
    fun hedge haction hstate => ?_, fun hedge haction hstate => ⟨fun hmode => ?_, fun hmode => ?_⟩⟩
  · refine opens_live h hclose hflip hc hstate hlive hpu howner howned rfl
      ((endPulse_of_reflex (s := s1) hpu howner howned hlength hlist .release none).trans ?_) rfl
    simp only [Pulse.stopped, beq_iff_eq]
    rfl
  · refine opens_waiting h hclose hflip hstate rfl ((withdraw_of_busy (s := s1) hc hbusy).trans ?_) fun _ => rfl
    simp only [State.dequeued, filter_owner_ne]
  · intro others hquiet
    refine opens_waiting h hclose hflip hstate rfl
      ((withdraw_of_front (s := s1) hc hphase hqueue howner hquiet).trans ?_) fun _ => rfl
    simp only [State.unlisted, others, filter_channel_ne]
    rfl
  · have hbusy := (ReflexState.busy_iff _).mpr hstate
    exact h.leaves_ignored (Reflex.concerned_of_trigger hswitch hedge fun h => by rw [h] at hbusy; cases hbusy)
      ((reflexAct_of_trigger_edge (s := s1) haction).trans (triggerEdge_of_busy hbusy))
  · refine h.leaves_ignored (Reflex.concerned_of_trigger hswitch hedge (by rw [hstate]; nofun))
      ((reflexAct_of_trigger_edge (s := s1) (.inl ?_)).trans
        ((triggerEdge_of_tilt (s := s1) haction hstate).trans (if_neg hmode)))
    show r.action ≠ _
    rw [haction]; nofun
  · obtain ⟨t, hexec, htilt, hrail, hedges, hentries, hports⟩ :=
      tilt_of_edge h (by rw [hedge, Bool.not_not]) haction hstate hmode
    refine ⟨t, hexec, htilt, hrail, hedges, hentries, fun hqueues hlist => hports ?_⟩
    rintro (⟨c, q, hq, howner⟩ | ⟨m, hm, howner⟩)
    · exact hqueues c q hq howner
    · exact hlist m hm howner

end Sys2Proof.Machine

/-!
SUPPORT. What a change of mode leaves of a request that waits, up to the part of its own entry in it.
-/

namespace Sys2Proof.Machine

/-! ## A request that stands where it stood -/

/-- A state in which an entry is as in another, no queue and no list has a new member, and the entry's testing front
stands. -/
structure State.Still (x : ReflexNo) (t s : State) : Prop where
  entry : t.reflexAt x = s.reflexAt x
  queue : ∀ c, ∀ q ∈ (t.chan c).queue, q ∈ (s.chan c).queue
  list : ∀ m ∈ t.arbiter.list, m ∈ s.arbiter.list
  front : ∀ c, (s.chan c).isTestingFront (.reflex x) = true → (t.chan c).isTestingFront (.reflex x) = true

section Still

variable {x : ReflexNo} {r s t : State}

theorem State.Still.refl (s : State) : s.Still x s := ⟨rfl, fun _ _ => id, fun _ => id, fun _ => id⟩

theorem State.Still.trans (h : t.Still x s) (h' : s.Still x r) : t.Still x r where
  entry := h.entry.trans h'.entry
  queue c q hq := h'.queue c q (h.queue c q hq)
  list m hm := h'.list m (h.list m hm)
  front c hfront := h.front c (h'.front c hfront)

theorem still_of_rest (hchannels : t.channels = s.channels) (hreflexes : t.reflexes = s.reflexes)
    (hlist : ∀ m ∈ t.arbiter.list, m ∈ s.arbiter.list) : t.Still x s where
  entry := by rw [State.reflexAt, hreflexes]; rfl
  queue c q hq := by rw [State.chan, hchannels] at hq; exact hq
  list := hlist
  front c hfront := by rw [State.chan, hchannels]; exact hfront

theorem still_conclude (s : State) (e : Entry) (status : EndStatus) : (s.conclude e status).Still x s := by
  obtain ⟨hchannels, hreflexes, harbiter⟩ := conclude_rest s e status
  exact still_of_rest hchannels hreflexes fun m hm => harbiter ▸ hm

theorem still_modReflex {y : ReflexNo} (hy : y ≠ x) (s : State) (f : Reflex → Reflex) : (s.modReflex y f).Still x s :=
  { State.Still.refl s with entry := State.reflexAt_modReflex_ne s hy f }

/-- A write of a channel that leaves its phase, adds no member and keeps the entry at the front. -/
theorem still_modChan {c : Chan} {f : Channel → Channel} (hqueue : ∀ q ∈ (f (s.chan c)).queue, q ∈ (s.chan c).queue)
    (hfront : (s.chan c).isTestingFront (.reflex x) = true → (f (s.chan c)).isTestingFront (.reflex x) = true) :
    (s.modChan c f).Still x s where
  entry := rfl
  queue d q hq := by
    rw [State.chan_modChan] at hq
    split at hq
    · rename_i hd; subst hd; exact hqueue q hq
    · exact hq
  list _ := id
  front d hd := by
    rw [State.chan_modChan]
    split
    · rename_i hc; subst hc; exact hfront hd
    · exact hd

theorem still_unlisted (s : State) (c : Chan) : (s.unlisted c).Still x s :=
  still_of_rest rfl rfl fun _ hm => (List.mem_filter.mp hm).1

theorem still_disown (c : Chan) (o : Owner) : (s.disown c o).Still x s := by
  rw [State.disown, State.modPulse]
  exact still_modChan (fun _ => id) id

/-- A testing front stands when another owner leaves the queue. -/
theorem isTestingFront_left {ch : Channel} {o o' : Owner} (h : ch.isTestingFront o = true) (ho : o ≠ o')
    (front : Front) :
    Channel.isTestingFront { ch with queue := ch.queue.filter fun q => q.owner != o', front := front } o = true := by
  simp only [Channel.isTestingFront, Bool.and_eq_true, beq_iff_eq] at h ⊢
  obtain ⟨hidle, hhead⟩ := h
  refine ⟨hidle, ?_⟩
  cases hqueue : ch.queue with
  | nil => rw [hqueue] at hhead; cases hhead
  | cons q rest =>
    rw [hqueue] at hhead
    have hq : q.owner = o := Option.some.inj hhead
    rw [List.filter_cons_of_pos (by simpa [hq] using ho)]
    exact hhead

theorem still_leaveQueue {o : Owner} (ho : o ≠ .reflex x) (s : State) (c : Chan) :
    (s.leaveQueue false c o).Still x s := by
  have hleft : ∀ front : Front, (s.modChan c fun ch =>
      { ch with queue := ch.queue.filter fun q => q.owner != o, front := front }).Still x s := fun front =>
    still_modChan (fun _ hq => (List.mem_filter.mp hq).1) fun h => isTestingFront_left h ho.symm front
  rw [State.leaveQueue]
  split
  · rw [depart_false]
    exact (still_unlisted _ c).trans (hleft _)
  · exact hleft _

/-! ## A pulse that is cut -/

/-- The cut of a live pulse moves no request. -/
theorem State.CutAt.still {d : Chan} (h : t.CutAt d s) (hlive : (s.chan d).phase.isLive = true)
    (hentry : t.reflexAt x = s.reflexAt x) : t.Still x s where
  entry := hentry
  queue c q hq := by
    by_cases hdc : d = c
    · subst hdc; exact h.queue ▸ hq
    · exact h.others c hdc ▸ hq
  list m hm := h.list ▸ hm
  front c hfront := by
    have hdc : d ≠ c := by
      rintro rfl
      simp only [Channel.isTestingFront, Bool.and_eq_true, beq_iff_eq] at hfront
      rw [hfront.1] at hlive
      cases hlive
    rw [h.others c hdc]
    exact hfront

/-- A pulse whose recycle ends no order and is no pulse of an entry. -/
def Pulse.Foreign (x : ReflexNo) (pu : Pulse) : Prop := pu.owned = false ∨ ∃ y, y ≠ x ∧ pu.owner = .reflex y

theorem recycleOver_entry {s : State} {d : Chan} {pu : Pulse} (hphase : (s.chan d).phase = .recycle)
    (hpu : (s.chan d).pulse = some pu) (hlatched : pu.latched = none) (hforeign : pu.Foreign x) :
    (s.recycleOver d).2.reflexAt x = s.reflexAt x := by
  have hunowned : pu.owned = false →
      (s.recycled d .idle (s.chan d).fault).tellRecycleEnd d pu false =
        ([], s.recycled d .idle (s.chan d).fault) := fun h => if_neg (by simp [h])
  rw [recycleOver_of_sound hphase hpu hlatched]
  cases howned : pu.owned with
  | false => rw [hunowned howned]; rfl
  | true =>
    rcases hforeign with h | ⟨y, hy, howner⟩
    · rw [howned] at h; cases h
    · rw [tellRecycleEnd_of_reflex howner howned]
      exact State.reflexAt_modReflex_ne _ hy _

/-- A live pulse that is cut is a matter of its owner alone. -/
theorem still_cutPulse {d : Chan} {tell : State → State} {pu : Pulse} (hlive : (s.chan d).phase.isLive = true)
    (ht : tell (s.stopPulse d none) = t) (hcut : t.CutAt d s) (hentry : t.reflexAt x = s.reflexAt x)
    (hphase : (t.chan d).phase = .recycle) (hpu : (t.chan d).pulse = some pu) (hlatched : pu.latched = none)
    (hforeign : pu.Foreign x) : (s.cutPulse d tell).Still x s := by
  have hquiet : pu.EndsNoOrder := hforeign.imp_right fun ⟨y, _, howner⟩ => ⟨y, howner⟩
  obtain ⟨hends, -⟩ := recycleOver_of_noOrder hphase hpu hlatched hquiet
  obtain ⟨hcuts, -⟩ := cutPulse_spec ht hcut hphase hpu hlatched hquiet
  refine hcuts.still hlive ?_
  unfold State.cutPulse
  dsimp only
  rw [ht]
  split
  · rw [hends, doAll_nil]
    exact (recycleOver_entry hphase hpu hlatched hforeign).trans hentry
  · exact hentry

section Cut

variable (hs : s.coherent) {d : Chan}
include hs

theorem still_abortPulse (hlive : (s.chan d).phase.isLive = true) : (s.abortPulse d).Still x s := by
  obtain ⟨pu, hpu, hlatched⟩ := pulse_of_live hs hlive
  let told := (s.stopPulse d none).tellAbort d
  let t := told.modPulse d fun pu => { pu with owned := false }
  have hchan : t.chan d =
      { (s.chan d).updateHeat s.now with phase := .recycle, pulse := some (pu.unowned s.now) } := by
    simp only [t, told, State.modPulse, State.chan_modChan_self, chan_tellAbort, stopPulse_eq hpu]
    rfl
  have hcut : t.CutAt d s :=
    State.CutAt.trans (s := told) (cutAt_modChan rfl) ((cutAt_tellAbort _ d).trans (cutAt_stopPulse s d))
  have htold : told.reflexes = s.reflexes := by
    show ((s.stopPulse d none).tellAbort d).reflexes = _
    unfold State.tellAbort
    split <;> rfl
  exact still_cutPulse (pu := pu.unowned s.now) hlive rfl hcut
    (congrArg (fun reflexes : Vector Reflex 16 => reflexes[x]) htold) (by rw [hchan]) (by rw [hchan]) hlatched
    (.inl rfl)

theorem still_cutReflexPulse {y : ReflexNo} (hy : y ≠ x) (hruns : (s.chan d).runs (.reflex y) = true) (cause : Cause) :
    (s.cutReflexPulse d y cause).Still x s := by
  obtain ⟨hlive, pu, hpu, -, howner⟩ := runs_iff.mp hruns
  obtain ⟨pu', hpu', hlatched⟩ := pulse_of_live hs hlive
  obtain rfl : pu = pu' := Option.some.inj (hpu.symm.trans hpu')
  have hchan : ((s.stopPulse d none).reflexPulseEnd y cause).chan d =
      { (s.chan d).updateHeat s.now with phase := .recycle, pulse := some (pu.stopped s.now none) } := by
    show (s.stopPulse d none).chan d = _
    rw [stopPulse_eq hpu, State.chan_modChan_self]; rfl
  exact still_cutPulse (tell := fun s => s.reflexPulseEnd y cause) (pu := pu.stopped s.now none) hlive rfl
    ((cutAt_reflexes _).trans (cutAt_stopPulse s d)) (State.reflexAt_modReflex_ne _ hy _) (by rw [hchan])
    (by rw [hchan]) hlatched (.inr ⟨y, hy, howner⟩)

/-! ## The orders and the other entries -/

theorem still_abortEntry (status : EndStatus) (p : Port) (tag : Byte) : (s.abortEntry status p tag).Still x s := by
  cases hentry : s.liveEntry p tag with
  | none => rw [abortEntry_of_none hentry]; exact .refl s
  | some e =>
    rw [abortEntry_of_live hentry]
    refine (still_conclude _ e status).trans ?_
    unfold State.vacated
    split
    · rename_i hruns
      exact still_abortPulse hs (runs_iff.mp hruns).1
    · exact (still_leaveQueue (o := .order p tag) nofun _ _).trans (still_disown _ _)

theorem still_abortPorts (status : EndStatus) (ps : List Port) : (ps.foldl (State.abortPort status) s).Still x s :=
  abortPorts_induct (I := fun t => t.Still x s)
    (fun _ ht q _ hI => abortEach_induct (I := fun t => t.Still x s)
      (fun _ ht e _ hI => (still_abortEntry ht status q e.order.tag).trans hI) _ ht hI) s hs (.refl s)

theorem still_reflexModeChange {y : ReflexNo} (hy : y ≠ x) (mode : Mode) : (s.reflexModeChange mode y).Still x s := by
  unfold State.reflexModeChange
  dsimp only
  split
  · exact still_modReflex hy s _
  · exact still_modReflex hy s _
  · split
    · exact .refl s
    · exact still_modReflex hy s _
  · split
    · exact .refl s
    · refine (still_modReflex hy _ _).trans ?_
      split
      · exact still_leaveQueue (fun h => hy (Owner.reflex.inj h)) s _
      · exact .refl s
  · split
    · split
      · rename_i hruns
        exact still_cutReflexPulse hs hy hruns _
      · exact .refl s
    · exact .refl s

theorem still_reflexes {l : List ReflexNo} (hl : x ∉ l) (mode : Mode) :
    (l.foldl (State.reflexModeChange mode) s).Still x s := by
  induction l generalizing s with
  | nil => exact .refl s
  | cons y l ih =>
    exact (ih (kept_coherent.reflexModeChange mode y hs) fun h => hl (List.mem_cons_of_mem _ h)).trans
      (still_reflexModeChange hs (fun h : y = x => hl (h ▸ List.mem_cons_self ..)) mode)

end Cut

end Still

end Sys2Proof.Machine

/-!
SUPPORT. The takes of a change of mode, from rings in which every order is marked: with no order of a ring in a channel
queue they move no request of a reflex entry.
-/

namespace Sys2Proof.Machine

/-- The ring of a port holds no order whose tag stands in a channel queue. -/
def State.RingsApart (s : State) : Prop :=
  ∀ p, ∀ slot ∈ (s.port p).ring.slots, ∀ d, ∀ q ∈ (s.chan d).queue, q.owner ≠ .order p slot.order.tag

/-- A part of the takes: a take of a port that the mode does not allow, or the end of an order from its ring. -/
def Work.Draws (s : State) (mode : Mode) : Work → Prop
  | .takes p => modeAllows mode p = false
  | .finish p tag _ => modeAllows mode p = false ∧ ∃ slot ∈ (s.port p).ring.slots, slot.order.tag = tag
  | .offer _ => False
  | .ready _ _ => False
  | .arrive _ _ => False

/-- Where a change of mode stands between two parts of its takes. -/
structure State.Drawing (s : State) (mode : Mode) (x : ReflexNo) (ws : List Work) (t : State) : Prop where
  still : t.Still x (s.marked mode)
  stands : ∀ p, modeAllows mode p = false → (s.drawOf mode p).Stands ws t
  works : ∀ w ∈ ws, w.Draws s mode

section Drawing

variable {s t : State} {mode : Mode} {x : ReflexNo} {ws : List Work}

theorem marked_queue (s : State) (mode : Mode) (c : Chan) : ((s.marked mode).chan c).queue = (s.chan c).queue := by
  rw [(marked_chan s mode c).1, (sameOrders_entered s mode).queue]

/-- A slot of a marked ring is one of the ring, with a mark. -/
theorem slot_of_marked {m : Mark} {slots : List Slot} {slot : Slot} (h : slot ∈ markSlots m slots) :
    (∃ m', slot.mark = some m') ∧ ∃ slot' ∈ slots, slot'.order = slot.order := by
  refine ⟨Option.isSome_iff_exists.mp (markSlots_marked m slots slot h), ?_⟩
  obtain ⟨slot', hslot', rfl⟩ := List.mem_map.mp h
  exact ⟨slot', hslot', rfl⟩

/-- The end of an order that was taken leaves no order of its port live. -/
theorem Draw.Stands.ended_of_finish {dr : Draw} {tag : Byte} {status : EndStatus} {e : Entry}
    (h : dr.Stands (.finish dr.port tag status :: ws) t) (hlive : t.liveEntry dr.port tag = some e) (tag' : Byte) :
    ((t.leaveQueue false e.order.channel (.order dr.port tag)).conclude e status).liveEntry dr.port tag' = none := by
  cases h with
  | rests k works done => rw [done.ended tag] at hlive; cases hlive
  | takes works hslots hmark now taken others ring records =>
    rename_i k slot rest m
    have hpass := passes_leaveQueue (c := 0) (o := .reflex 0) (s := t) e.order.channel (.order dr.port slot.order.tag)
    obtain ⟨hport, htag⟩ := liveEntry_is hlive
    rw [liveEntry_conclude]
    split
    · rfl
    · rename_i his
      have hother := others tag' fun h => his (Entry.is_iff.mpr ⟨hport, htag.trans h.symm⟩)
      rw [liveEntry_eq_none_iff] at hother ⊢
      rw [hpass.keys]
      exact hother

/-- A port takes its next order only when no end is under way there. -/
theorem Draw.Stands.done_of_takes {dr : Draw} {p : Port} (h : dr.Stands (.takes p :: ws) t) : ∃ k, dr.Done k t := by
  cases h with
  | rests k works done => exact ⟨k, done⟩

variable (hapart : s.RingsApart)
include hapart

/-- Each part moves no request, and leads to parts of the same kind. -/
theorem State.Drawing.run_draws {w : Work} (h : s.Drawing mode x (w :: ws) t) :
    (w.run false t).state.Still x t ∧ ∀ v ∈ (w.run false t).next ++ (w.run false t).last, v.Draws s mode := by
  have hw := h.works w (List.mem_cons_self ..)
  cases w with
  | offer cs => exact hw.elim
  | ready p tag => exact hw.elim
  | arrive p tag => exact hw.elim
  | takes p =>
    have hp : modeAllows mode p = false := hw
    obtain ⟨k, hdone⟩ := (h.stands p hp).done_of_takes
    rcases takeHead_cases p t with hrun | ⟨slot, rest, hslots, hrun⟩
    · rw [show Work.run false (.takes p) t = _ from hrun]
      exact ⟨.refl t, by simp⟩
    · have hmem : slot ∈ markSlots (abortMark mode) (s.port p).ring.slots :=
        List.mem_of_mem_drop (i := k) (by
          have hring : (t.port p).ring.slots = (markSlots (abortMark mode) (s.port p).ring.slots).drop k := hdone.ring
          rw [← hring, hslots]
          exact List.mem_cons_self ..)
      obtain ⟨⟨m, hmark⟩, slot', hslot', horder⟩ := slot_of_marked hmem
      rw [takeOutcome_of_mark hmark] at hrun
      rw [show Work.run false (.takes p) t = _ from hrun]
      refine ⟨still_of_rest rfl rfl fun _ => id, fun v hv => ?_⟩
      simp only [List.singleton_append, List.mem_cons, List.not_mem_nil, or_false] at hv
      rcases hv with rfl | rfl
      · exact ⟨hp, slot', hslot', by rw [horder]⟩
      · exact hp
  | finish p tag status =>
    obtain ⟨hp, slot, hslot, rfl⟩ := hw
    cases hlive : t.liveEntry p slot.order.tag with
    | none =>
      simp only [Work.run, finish, hlive]
      exact ⟨.refl t, by simp⟩
    | some e =>
      let u := (t.leaveQueue false e.order.channel (.order p slot.order.tag)).conclude e status
      have hended : ∀ tag', u.liveEntry p tag' = none := (h.stands p hp).ended_of_finish hlive
      have hbehind : (t.chan e.order.channel).isTestingFront (.order p slot.order.tag) = false := by
        refine Bool.eq_false_iff.mpr fun hfront => ?_
        simp only [Channel.isTestingFront, Bool.and_eq_true, beq_iff_eq] at hfront
        obtain ⟨q, hq, howner⟩ := Option.map_eq_some_iff.mp hfront.2
        have hq' := h.still.queue _ q (List.mem_of_mem_head? hq)
        rw [marked_queue] at hq'
        exact hapart p slot hslot _ q hq' howner
      have hrun : Work.run false (.finish p slot.order.tag status) t = ⟨[], [.takes p], u⟩ := by
        simp only [Work.run, finish, hlive, hbehind, Bool.false_eq_true, if_false, List.append_nil]
        rw [followerWork_of_ended hended]
      rw [hrun]
      refine ⟨(still_conclude _ e status).trans (still_leaveQueue (o := .order p slot.order.tag) nofun _ _),
        fun v hv => ?_⟩
      rw [List.mem_singleton.mp hv]
      exact hp

theorem State.Drawing.run {w : Work} (h : s.Drawing mode x (w :: ws) t) :
    s.Drawing mode x ((w.run false t).next ++ ws ++ (w.run false t).last) (w.run false t).state := by
  obtain ⟨hstill, hworks⟩ := h.run_draws hapart
  refine ⟨hstill.trans h.still, fun p hp => (h.stands p hp).run (markSlots_marked _ _), fun v hv => ?_⟩
  simp only [List.mem_append] at hv hworks
  rcases hv with (hv | hv) | hv
  · exact hworks v (.inl hv)
  · exact h.works v (List.mem_cons_of_mem _ hv)
  · exact hworks v (.inr hv)

/-- The ends and the takes of a change of mode move no request of an entry. -/
theorem still_drawn (hs : s.coherent) (mode : Mode) (x : ReflexNo) : (s.drawn mode).Still x (s.marked mode) := by
  have hstart : s.Drawing mode x ((abortedPorts mode).map Work.takes) (s.aborted mode) := by
    refine ⟨still_abortPorts (coherent_marked hs) _ _, fun p hp => ?_, fun w hw => ?_⟩
    · refine .rests 0 (fun w hw => ?_) (aborted_stands hs hp).1
      obtain ⟨q, -, rfl⟩ := List.mem_map.mp hw
      trivial
    · obtain ⟨q, hq, rfl⟩ := List.mem_map.mp hw
      simpa [abortedPorts, Work.Draws] using (List.mem_filter.mp hq).2
  exact (doAll_induct false (I := s.Drawing mode x) (fun w ws t h => h.run hapart) _ _ hstart).still

end Drawing

/-! ## A request whose entry stops being armed -/

/-- What goes before the entry's own part moves no request of it. -/
theorem still_before {s : State} (hs : s.coherent) (hapart : s.RingsApart) (mode : Mode) {x : ReflexNo}
    {before : List ReflexNo} (hx : x ∉ before) :
    (before.foldl (State.reflexModeChange mode) (s.drawn mode)).Still x (s.marked mode) :=
  (still_reflexes (kept_coherent.doAll false _ (coherent_aborted hs)) hx mode).trans (still_drawn hapart hs mode x)

theorem queue_leaveQueue (s : State) (c : Chan) (o : Owner) :
    ((s.leaveQueue false c o).chan c).queue = (s.chan c).queue.filter fun q => q.owner != o := by
  rw [leaveQueue_false]
  split
  · show ((s.modChan c (·.frontLeft o)).chan c).queue = _
    rw [State.chan_modChan_self]; rfl
  · rw [chan_dequeued]

/-- A departure adds no member to a queue or to the list. -/
theorem members_leaveQueue (s : State) (c : Chan) (o : Owner) :
    (∀ d, ∀ q ∈ ((s.leaveQueue false c o).chan d).queue, q ∈ (s.chan d).queue)
      ∧ ∀ m ∈ (s.leaveQueue false c o).arbiter.list, m ∈ s.arbiter.list := by
  refine ⟨fun d q hq => ?_, fun m hm => ?_⟩
  · by_cases hd : c = d
    · subst hd
      rw [queue_leaveQueue] at hq
      exact (List.mem_filter.mp hq).1
    · rw [leaveQueue_false] at hq
      split at hq
      · exact (State.chan_modChan_ne s hd (·.frontLeft o)) ▸ hq
      · exact (State.chan_modChan_ne s hd _) ▸ hq
  · rw [leaveQueue_false] at hm
    split at hm
    · exact (List.mem_filter.mp hm).1
    · exact hm

/-- A request on one channel alone, listed only as its testing front, is gone when it leaves the queue. -/
theorem asks_leaveQueue {t : State} {c : Chan} {x : ReflexNo}
    (hqueues : ∀ d, ∀ q ∈ (t.chan d).queue, q.owner = .reflex x → d = c)
    (hlist : ∀ m ∈ t.arbiter.list, m.owner = .reflex x → m.channel = c ∧ (t.chan c).isTestingFront (.reflex x) = true) :
    ¬(t.leaveQueue false c (.reflex x)).Asks x := by
  obtain ⟨hqueue, hmembers⟩ := members_leaveQueue t c (.reflex x)
  rintro (⟨d, q, hq, howner⟩ | ⟨m, hm, howner⟩)
  · have hd := hqueues d q (hqueue d q hq) howner
    rw [hd, queue_leaveQueue] at hq
    exact bne_iff_ne.mp (List.mem_filter.mp hq).2 howner
  · obtain ⟨hc, hfront⟩ := hlist m (hmembers m hm) howner
    rw [leaveQueue_false, if_pos hfront] at hm
    exact bne_iff_ne.mp (List.mem_filter.mp hm).2 hc

/-- What a change of mode leaves of a WAITING entry that stops being armed (R119, R125). -/
theorem changeMode_of_waiting {s : State} (hs : s.coherent) {mode : Mode} {x : ReflexNo} {c : Chan}
    (hstate : (s.reflexAt x).state = .waiting) (hc : channelOf (s.reflexAt x).channel = some c)
    (harmed : (s.reflexAt x).isArmed mode = false)
    (hqueues : ∀ d, ∀ q ∈ (s.chan d).queue, q.owner = .reflex x → d = c)
    (hlist : ∀ m ∈ s.arbiter.list, m.owner = .reflex x → m.channel = c ∧ (s.chan c).isTestingFront (.reflex x) = true)
    (hapart : s.RingsApart) :
    (s.changeMode mode).Quiet x { s.reflexAt x with state := .disarmed } (s.entered mode).control := by
  obtain ⟨hcontrol, hreflexes, -, hphase, -, -⟩ := marked_rest s mode
  obtain ⟨-, -, hmlist, -⟩ := marked_chan s mode 0
  have hmode := entered_mode s mode
  have h := (kept_quiet x { s.reflexAt x with state := .disarmed } (s.entered mode).control).changeMode
    (fun _ c _ _ _ => quiet_coils x _ _ c) (s := s) fun before hx => ?_
  · rw [hmode] at h; exact h
  rw [hmode]
  have hstill := still_before hs hapart mode hx
  have hheld := (kept_holds (p := fun _ => True) (ct := (s.entered mode).control) (fun _ _ _ _ => trivial) x).before hx
    (s := s) ⟨trivial, by rw [hmode]; exact hcontrol⟩
  rw [hmode] at hheld
  generalize before.foldl (State.reflexModeChange mode) (s.drawn mode) = t at hstill hheld ⊢
  have hentry : t.reflexAt x = s.reflexAt x := hstill.entry.trans (by rw [State.reflexAt, hreflexes]; rfl)
  rw [reflexModeChange_of_waiting (c := c) (by rw [hentry]; exact hstate) (by rw [hentry]; exact hc)
    (by rw [hentry]; exact harmed)]
  have hasks : ¬(t.leaveQueue false c (.reflex x)).Asks x :=
    asks_leaveQueue (fun d q hq => hqueues d q (by rw [← marked_queue s mode]; exact hstill.queue d q hq))
      fun m hm howner => by
        obtain ⟨hmc, hfront⟩ := hlist m (hmlist ▸ hstill.list m hm) howner
        exact ⟨hmc, hstill.front c ((isTestingFront_congr (hphase c) (marked_queue s mode c) _).trans hfront)⟩
  have hleft : (t.leaveQueue false c (.reflex x)).reflexes = t.reflexes
      ∧ (t.leaveQueue false c (.reflex x)).control = t.control := by
    rw [leaveQueue_false]
    split <;> exact ⟨rfl, rfl⟩
  refine ⟨hasks, ?_, hleft.2.trans hheld.2⟩
  rw [State.reflexAt_modReflex_self, State.reflexAt, hleft.1]
  exact congrArg (fun r : Reflex => { r with state := .disarmed }) hentry

end Sys2Proof.Machine

/-!
SUPPORT. What a change of mode leaves of a reflex entry's pulse.
-/

namespace Sys2Proof.Machine

section Pulses

variable {s : State} {mode : Mode} {x : ReflexNo} {c : Chan} {pu : Pulse}

/-- The entry's pulse before the entry's own part. -/
theorem drives_before (hpu : (s.chan c).pulse = some pu) (howner : pu.owner = .reflex x)
    (hphase : (s.chan c).phase ≠ .idle) {before : List ReflexNo} (hx : x ∉ before) :
    (before.foldl (State.reflexModeChange mode) (s.drawn mode)).Drives c (s.chan c).phase pu (s.entered mode).control
      s.now := by
  obtain ⟨hcontrol, -, hnow, hphase', hpulse, -⟩ := marked_rest s mode
  have h := (kept_drives (ct := (s.entered mode).control) (now := s.now) howner hphase).before hx (s := s)
    (by rw [entered_mode]; exact ⟨hphase' c, (hpulse c).trans hpu, hcontrol, hnow⟩)
  rw [entered_mode] at h
  exact h

/-- What a change of mode leaves of an entry and of its pulse, from the entry's own part in it. -/
theorem changeMode_pulse {phase : Phase} {pu' : Pulse} {r : Reflex} (hasks : ¬s.Asks x)
    (hpu : (s.chan c).pulse = some pu) (howner : pu.owner = .reflex x) (hphase : (s.chan c).phase ≠ .idle)
    (howner' : pu'.owner = .reflex x) (hphase' : phase ≠ .idle)
    (hon : phase.isLive = true → (s.entered mode).control.rail ≠ .off)
    (hstep : ∀ t : State, t.Quiet x (s.reflexAt x) (s.entered mode).control →
      t.Drives c (s.chan c).phase pu (s.entered mode).control s.now →
      (t.reflexModeChange mode x).Quiet x r (s.entered mode).control
        ∧ (t.reflexModeChange mode x).Drives c phase pu' (s.entered mode).control s.now) :
    (s.changeMode mode).reflexAt x = r ∧ ((s.changeMode mode).chan c).phase = phase
      ∧ ((s.changeMode mode).chan c).pulse = some pu' := by
  have hboth := fun before (hx : x ∉ before) =>
    hstep _ (quiet_before hasks hx) (drives_before (mode := mode) hpu howner hphase hx)
  have hquiet := (kept_quiet x r (s.entered mode).control).changeMode (fun _ c _ _ _ => quiet_coils x r _ c) (s := s)
    fun before hx => by rw [entered_mode]; exact (hboth before hx).1
  have hdrives := (kept_drives (c := c) (ct := (s.entered mode).control) (now := s.now) howner' hphase').changeMode
    (fun t d ht hrail hlive => drives_coils (by
      rintro rfl
      exact hon (ht.phase ▸ hlive) hrail)) (s := s)
    fun before hx => by rw [entered_mode]; exact (hboth before hx).2
  rw [entered_mode] at hquiet hdrives
  exact ⟨hquiet.entry, hdrives.phase, hdrives.pulse⟩

variable (hasks : ¬s.Asks x) (hstate : (s.reflexAt x).state = .active)
  (hc : channelOf (s.reflexAt x).channel = some c) (hpu : (s.chan c).pulse = some pu) (howner : pu.owner = .reflex x)
include hasks hstate hc hpu howner

/-- A live pulse that the mode cuts ends with its cause; the entry stays ACTIVE and reports it (R125, R131). -/
theorem changeMode_of_cut (howned : pu.owned = true) (hlive : (s.chan c).phase.isLive = true)
    (hlength : 0 < pu.recycleLength) {cause : Cause} (hcause : (s.reflexAt x).cutCause mode = some cause) :
    (s.changeMode mode).reflexAt x =
        { s.reflexAt x with report := { (s.reflexAt x).report with lastEnd := some cause } }
      ∧ ((s.changeMode mode).chan c).phase = .recycle
      ∧ ((s.changeMode mode).chan c).pulse = some (pu.stopped s.now none) := by
  have hphase : (s.chan c).phase ≠ .idle := by rintro h; rw [h] at hlive; cases hlive
  refine changeMode_pulse hasks hpu howner hphase howner nofun nofun fun t hq hd => ?_
  have hruns : (t.chan c).runs (.reflex x) = true :=
    runs_iff.mpr ⟨by rw [hd.phase]; exact hlive, pu, hd.pulse, howned, howner⟩
  have hcut : t.cutReflexPulse c x cause = (t.stopPulse c none).reflexPulseEnd x cause := by
    simp only [State.cutReflexPulse, State.cutPulse, hd.pulse, Option.map_some, Option.getD_some,
      if_neg (Nat.pos_iff_ne_zero.mp hlength)]
  rw [reflexModeChange_of_cut (by rw [hq.entry]; exact hstate) (by rw [hq.entry]; exact hc) hruns
    (by rw [hq.entry]; exact hcause), hcut]
  have hstopped := (quiet_coils x (s.reflexAt x) (s.entered mode).control c).stopPulse none hq
  have hchan : ((t.stopPulse c none).chan c).phase = .recycle
      ∧ ((t.stopPulse c none).chan c).pulse = some (pu.stopped s.now none) := by
    rw [stopPulse_eq hd.pulse, State.chan_modChan_self, hd.now]
    exact ⟨rfl, rfl⟩
  have hnow : (t.stopPulse c none).now = s.now := by rw [stopPulse_eq hd.pulse]; exact hd.now
  exact ⟨⟨hstopped.asks, by rw [State.reflexPulseEnd, State.reflexAt_modReflex_self, hstopped.entry],
    hstopped.control⟩, ⟨hchan.1, hchan.2, hstopped.control, hnow⟩⟩

/-- A live pulse that the mode does not cut runs on with the rail, and so does a recycle (R125). -/
theorem changeMode_of_kept (hphase : (s.chan c).phase.isLive = true ∨ (s.chan c).phase = .recycle)
    (hkept : (s.chan c).phase.isLive = true →
      (s.reflexAt x).cutCause mode = none ∧ (s.entered mode).control.rail ≠ .off) :
    (s.changeMode mode).reflexAt x = s.reflexAt x ∧ ((s.changeMode mode).chan c).phase = (s.chan c).phase
      ∧ ((s.changeMode mode).chan c).pulse = some pu := by
  have hidle : (s.chan c).phase ≠ .idle := by
    rintro h
    rw [h] at hphase
    rcases hphase with h | h <;> cases h
  refine changeMode_pulse hasks hpu howner hidle howner hidle (fun hlive => (hkept hlive).2) fun t hq hd => ?_
  have hon : (t.chan c).runs (.reflex x) = false ∨ (t.reflexAt x).cutCause mode = none := by
    rw [hq.entry]
    rcases hphase with h | h
    · exact .inr (hkept h).1
    · exact .inl (by simp [Channel.runs, hd.phase, h, Phase.isLive])
  rw [reflexModeChange_of_active (by rw [hq.entry]; exact hstate) (by rw [hq.entry]; exact hc) hon]
  exact ⟨hq, hd⟩

end Pulses

/-- What a change of mode does to a live pulse, as R125 and R131 give it. -/
theorem Reflex.cutCause_eq (r : Reflex) (mode : Mode) :
    r.cutCause mode =
      if mode = .alarm then some .abort
      else if mode = .tilt ∨ mode = .idle ∨ r.action = .flip ∧ r.isArmed mode = false then some .release
      else none := by
  cases mode <;> simp [Reflex.cutCause]

/-- The rail stays on, or settles, in the modes that do not release it (R134). -/
theorem entered_rail {s : State} {mode : Mode} (hrail : s.control.rail = .on) (halarm : mode ≠ .alarm)
    (hidle : mode ≠ .idle) : (s.entered mode).control.rail ≠ .off := by
  unfold State.entered State.railFor
  split
  · exact absurd rfl hidle
  · exact absurd rfl halarm
  · split
    · nofun
    · show s.control.rail ≠ .off
      rw [hrail]; nofun

end Sys2Proof.Machine

/-!
A change of mode and the reflex table.
-/

namespace Sys2Proof.Machine

/-- A state with the orders and the reflex table of another. -/
structure State.Alike (t s : State) : Prop extends State.SameOrders t s where
  reflexes : t.reflexes = s.reflexes

/-- A command that enters a mode changes the mode of a state in which the orders and the reflex table stand as before,
and what it does then leaves them; only an alarm is raised in another state than the command's own (R31, R128, R135,
R136, R138, R140). -/
theorem enters_alike {i : Instr} {s t : State} {target : Mode} (h : s.enters i target) (hs : s.coherent)
    (hexec : exec i s = .next t) :
    ∃ s' : State, s'.Alike s ∧ s'.coherent ∧ t.Alike (s'.changeMode target) ∧ (target ≠ .alarm → s' = s) := by
  have hraised : ∀ {act : State → State} {s1 : State} {cause : AlarmCause}, s.powered = true →
      event act s = .next t → act s = s1.raiseAlarm cause → s1.SameOrders s → s1.reflexes = s.reflexes →
      s1.coherent → s1.control.mode ≠ .alarm →
      ∃ s' : State, s'.Alike s ∧ s'.coherent ∧ t.Alike (s'.changeMode .alarm) ∧ (Mode.alarm ≠ .alarm → s' = s) := by
    intro act s1 cause hp hevent hact hsame hreflexes hcoh hmode
    obtain rfl : (act s).decideLines = t := Host.Outcome.next.inj ((event_of_powered hp act).symm.trans hevent)
    let s2 : State := { s1 with control := { s1.control with alarm := some ⟨cause, s1.time, none, 0⟩ } }
    have hraise : act s = s2.changeMode .alarm := hact.trans (if_neg (by simpa using hmode))
    refine ⟨s2, ⟨(sameOrders_control s1 _).trans hsame, hreflexes⟩, hcoh, ?_, fun h => absurd rfl h⟩
    rw [← hraise]
    exact ⟨sameOrders_decideLines _, rfl⟩
  rcases h with ⟨p, b, rfl, hready, hmode, htarget, hmay, hreset⟩ | ⟨p, rfl, hready, hp, hmode, hsense, rfl⟩ |
    ⟨hpowered, hmode, rfl, hcause⟩
  · have hrow := exec_row_of_ready hready (.setMode b)
    refine ⟨s, ⟨.refl s, rfl⟩, hs, ?_, fun _ => rfl⟩
    rw [← answerSetMode_of_tests hmode htarget hmay hreset, ← Host.Outcome.next.inj (hrow.symm.trans hexec)]
    exact ⟨sameOrders_answered _ _ _ _, rfl⟩
  · have hrow := exec_row_of_ready hready .clearAlarm
    refine ⟨s, ⟨.refl s, rfl⟩, hs, ?_, fun _ => rfl⟩
    rw [← answerClearAlarm_of_tests hp hmode hsense, ← Host.Outcome.next.inj (hrow.symm.trans hexec)]
    exact ⟨sameOrders_answered _ _ _ _, rfl⟩
  · rcases hcause with ⟨c, expiry, rfl, hat, hle⟩ | ⟨expiry, rfl, hat, hle⟩ | ⟨expiry, rfl, hrail, hle, hlow⟩
    · have hdue : s.expired (s.chan c).shortAt = true := by simp [State.expired, hat, hle]
      exact hraised (act := (State.takeShortCheck · c)) hpowered hexec (if_pos hdue)
        (sameOrders_modChan s c fun _ => ⟨rfl, rfl, rfl⟩) rfl (kept_coherent.noShort c hs) hmode
    · have hdue : s.expired s.control.railLossAt = true := by simp [State.expired, hat, hle]
      exact hraised (act := State.takeRailLoss) hpowered hexec (if_pos hdue) (sameOrders_control s _) rfl hs hmode
    · have hdue : s.settleDue = true := by simp [State.settleDue, hrail, hle]
      exact hraised (act := State.takeSettle) (cause := .railNoRise) hpowered hexec
        (by simp [State.takeSettle, hdue, hlow]) (.refl s) rfl hs hmode

section Alike

variable {s t : State}

theorem State.Alike.reflexAt (h : t.Alike s) (x : ReflexNo) : t.reflexAt x = s.reflexAt x := by
  rw [State.reflexAt, h.reflexes]; rfl

theorem State.Alike.asks (h : t.Alike s) (x : ReflexNo) : t.Asks x ↔ s.Asks x := by
  simp only [State.Asks, h.queue, h.list]

end Alike

/-- Settles O44: the command changes the mode of a state like its own (`enters_alike`). All that the change does before
and after the entry's own part leaves the entry as it is, and a pulse of it (`KeptBeside.changeMode`); a request that
waits is moved by nothing before that part (`still_before`). -/
theorem modeChangeAndReflexes : Obligations.ModeChangeAndReflexes := by
  intro i s t target x henters hs hexec r armed idle
  obtain ⟨s', hstart, hcoh, hend, hsame⟩ := enters_alike henters hs hexec
  have hentry : s'.reflexAt x = r := hstart.reflexAt x
  have harmed : armed ↔ r.isArmed target = true := (r.isArmed_iff target).symm
  have hquiet : idle → ¬s'.Asks x := fun ⟨hqueues, hlist⟩ hasks => by
    rcases (hstart.asks x).mp hasks with ⟨c, q, hq, howner⟩ | ⟨m, hm, howner⟩
    · exact hqueues c q hq howner
    · exact hlist m hm howner
  refine ⟨fun hstate hidle => ?_, fun hstate hidle => ?_, fun c hc => ⟨fun hstate hnot hqueues hlist hapart => ?_,
    fun pu hstate hpu howner howned hidle => ?_⟩⟩
  · rw [hend.reflexAt, changeMode_of_rest (hquiet hidle) (by rw [hentry]; exact hstate), hentry]
    simp only [Reflex.restState, harmed]
  · rw [hend.reflexAt, changeMode_of_spent (hquiet hidle) (by rw [hentry]; exact hstate), hentry]
    simp only [harmed]
  · have hfinal := changeMode_of_waiting hcoh (mode := target) (c := c) (by rw [hentry]; exact hstate)
      (by rw [hentry]; exact hc) (by rw [hentry, Bool.eq_false_iff]; exact fun h => hnot (harmed.mpr h))
      (by simpa only [hstart.queue] using hqueues)
      (fun m hm howner => by
        obtain ⟨hmc, hfront⟩ := hlist m (hstart.list ▸ hm) howner
        exact ⟨hmc, (isTestingFront_congr (hstart.phase c) (hstart.queue c) _).trans hfront⟩)
      (fun p slot hslot d q hq => by
        rw [hstart.ring] at hslot
        rw [hstart.queue] at hq
        exact hapart p slot hslot d q hq)
    have hasks : ¬t.Asks x := fun h => hfinal.asks ((hend.asks x).mp h)
    refine ⟨?_, fun q hq howner => hasks (asks_of_queue hq howner), fun m hm howner => hasks (asks_of_list hm howner)⟩
    rw [hend.reflexAt, hfinal.entry, hentry]
  · intro cause
    have hcause : (s'.reflexAt x).cutCause target = cause := by
      simp only [hentry, Reflex.cutCause_eq, cause, harmed, Bool.not_eq_true]
    have hactive : (s'.reflexAt x).state = .active := by rw [hentry]; exact hstate
    have hchannel : channelOf (s'.reflexAt x).channel = some c := by rw [hentry]; exact hc
    have hpulse : (s'.chan c).pulse = some pu := (hstart.pulse c).trans hpu
    have hphase : (s'.chan c).phase = (s.chan c).phase := hstart.phase c
    refine ⟨fun k hlive hlength hk => ?_, fun hlive hnone hrail => ?_, fun hrecycle => ?_⟩
    · obtain ⟨hentry', hphase', hpulse'⟩ := changeMode_of_cut (hquiet hidle) hactive hchannel hpulse howner howned
        (by rw [hphase]; exact hlive) hlength (hcause.trans hk)
      rw [hentry] at hentry'
      have hend' := (hend.phase c).trans hphase'
      refine ⟨(hend.reflexAt x).trans hentry', hend', gateSixteenths_of_recycle hend', ?_⟩
      rw [hend.pulse, hpulse', hstart.now]
      simp [Pulse.stopped]
    · have halarm : target ≠ .alarm := fun h => by simp [cause, h] at hnone
      have hidle' : target ≠ .idle := fun h => by simp [cause, h] at hnone
      obtain rfl := hsame halarm
      obtain ⟨hentry', hphase', hpulse'⟩ := changeMode_of_kept (hquiet hidle) hactive hchannel hpulse howner
        (.inl hlive) fun _ => ⟨hcause.trans hnone, entered_rail hrail halarm hidle'⟩
      exact ⟨(hend.reflexAt x).trans hentry', (hend.phase c).trans hphase', (hend.pulse c).trans hpulse'⟩
    · have hrecycle' := hphase.trans hrecycle
      obtain ⟨hentry', hphase', hpulse'⟩ := changeMode_of_kept (hquiet hidle) hactive hchannel hpulse howner
        (.inr hrecycle') (mode := target) fun hlive => by rw [hrecycle'] at hlive; cases hlive
      exact ⟨(hend.reflexAt x).trans (hentry'.trans hentry), (hend.phase c).trans (hphase'.trans hrecycle'),
        (hend.pulse c).trans hpulse'⟩

end Sys2Proof.Machine

/-!
The rail and the live pulses. The writes of `KeptPorts` make no pulse live but on an ON rail; a change of mode turns the
rail OFF while pulses are live and cuts them afterwards, so that it is followed by `State.railRightBut`.
-/

namespace Sys2Proof.Machine

/-! ## The rail and the live pulses -/

/-- `State.railRight` within a change of mode: with the rail OFF, the channels of a list may still drive the pulses that
the change is about to cut (R125, R132). -/
def State.railRightBut (l : List Chan) (s : State) : Prop :=
  (∀ c, (s.chan c).phase.isLive = true → s.control.rail = .on ∨ s.control.rail = .off ∧ c ∈ l)
    ∧ (s.control.mode = .idle ∨ s.control.mode = .alarm → s.control.rail = .off)

theorem railRightBut_nil : State.railRightBut [] = State.railRight := by
  funext s
  simp [State.railRightBut, State.railRight]

theorem State.railRightBut.mono {l l' : List Chan} {s : State} (h : s.railRightBut l) (hl : ∀ c ∈ l, c ∈ l') :
    s.railRightBut l' :=
  ⟨fun c hlive => (h.1 c hlive).imp_right (.imp_right (hl c)), h.2⟩

/-- Only the states of the channels, the mode and the rail count. -/
theorem State.railRightBut.congr {l : List Chan} {s t : State} (h : s.railRightBut l)
    (hphase : ∀ c, (t.chan c).phase = (s.chan c).phase) (hmode : t.control.mode = s.control.mode)
    (hrail : t.control.rail = s.control.rail) : t.railRightBut l := by
  unfold State.railRightBut
  simp only [hphase, hmode, hrail]
  exact h

theorem phase_modChan {s : State} {c : Chan} {f : Channel → Channel}
    (hf : (f (s.chan c)).phase = (s.chan c).phase) (d : Chan) :
    ((s.modChan c f).chan d).phase = (s.chan d).phase := by
  rw [State.chan_modChan]
  split
  · rename_i hd
    rw [hf, hd]
  · rfl

/-- The writes of the order pipeline, the arbiter and the pulses make no pulse live but on an ON rail (R66). -/
theorem kept_railRightBut (l : List Chan) : KeptPorts (State.railRightBut l) where
  ports _ _ _ h := h
  table _ _ _ h := h
  coil s c ph g hg _ hlive h := by
    obtain ⟨hdriven, hrests⟩ := h
    refine ⟨fun d hd => ?_, hrests⟩
    rw [chan_setPhase_modChan] at hd
    split at hd
    · rename_i hc
      subst hc
      obtain ⟨-, hphase, -⟩ := hg { (s.chan c).updateHeat s.now with phase := ph }
      rw [hphase] at hd
      rcases hlive hd with hwas | hon
      · exact hdriven c hwas
      · exact .inl (beq_iff_eq.mp hon)
    · exact hdriven d hd
  note _ _ _ hg _ h := h.congr (phase_modChan (hg _).2.1) rfl rfl
  heat _ _ h := h.congr (phase_modChan rfl) rfl rfl
  list _ _ _ h := h
  reflexes _ _ h := h
  lamps _ _ _ h := h
  free _ _ h := h
  port _ _ _ h := h

theorem kept_railRight : KeptPorts State.railRight := railRightBut_nil ▸ kept_railRightBut []

theorem State.railRight.congr {s t : State} (h : s.railRight)
    (hphase : ∀ c, (t.chan c).phase = (s.chan c).phase) (hmode : t.control.mode = s.control.mode)
    (hrail : t.control.rail = s.control.rail) : t.railRight := by
  rw [← railRightBut_nil] at h ⊢
  exact h.congr hphase hmode hrail

/-- A channel that enters a state without a live pulse is no longer one of those still to be cut. -/
theorem State.railRightBut.rests {l : List Chan} {s : State} {c : Chan} {ph : Phase} (h : s.railRightBut (c :: l))
    (hph : ph.isLive = false) : (s.setPhase c ph).railRightBut l := by
  obtain ⟨hdriven, hrests⟩ := h
  refine ⟨fun d hd => ?_, hrests⟩
  rw [chan_setPhase] at hd
  split at hd
  · rw [show Phase.isLive _ = false from hph] at hd
    cases hd
  · rename_i hc
    exact (hdriven d hd).imp_right (.imp_right fun hmem => (List.mem_cons.mp hmem).resolve_left (Ne.symm hc))

theorem State.railRight.rests {s : State} (h : s.railRight) (c : Chan) {ph : Phase} (hph : ph.isLive = false) :
    (s.setPhase c ph).railRight := by
  rw [← railRightBut_nil] at h ⊢
  exact (h.mono (l' := [c]) nofun).rests hph

/-! ## A change of mode -/

/-- With the rail OFF every pulse may still be live; left as it was, or SETTLING out of IDLE, it is as right as before
(R134). -/
theorem railRightBut_entered {s : State} (h : s.railRight) (mode : Mode) :
    (s.entered mode).railRightBut (allFin 24) := by
  obtain ⟨hdriven, hrests⟩ := h
  have hall : ∀ c : Chan, c ∈ allFin 24 := fun c => List.mem_ofFn.mpr ⟨c, rfl⟩
  unfold State.entered State.railFor
  split
  · exact ⟨fun c _ => .inr ⟨rfl, hall c⟩, fun _ => rfl⟩
  · exact ⟨fun c _ => .inr ⟨rfl, hall c⟩, fun _ => rfl⟩
  · rename_i hidle halarm
    have hworks : ¬(mode = .idle ∨ mode = .alarm) := by simpa using ⟨hidle, halarm⟩
    split
    · rename_i hleft
      have hoff : s.control.rail = .off := hrests (.inl hleft)
      refine ⟨fun c hlive => ?_, fun h => absurd h hworks⟩
      have hon := hdriven c hlive
      rw [hoff] at hon
      cases hon
    · exact ⟨fun c hlive => .inl (hdriven c hlive), fun h => absurd h hworks⟩

/-- A pulse that is cut is no longer live, whatever its owner is told (R125, R130). -/
theorem railRightBut_abortPulse {l : List Chan} {s : State} {c : Chan} (h : s.railRightBut (c :: l)) :
    (s.abortPulse c).railRightBut l := by
  have K := kept_railRightBut l
  have hstopped : (s.stopPulse c none).railRightBut l := K.modPulse c _ (fun _ => rfl) (h.rests rfl)
  have htold := K.modPulse c (fun pu => { pu with owned := false }) (fun _ => rfl) (K.tellAbort c hstopped)
  unfold State.abortPulse State.cutPulse
  dsimp only
  split
  · exact K.doAll false _ (K.recycleOver c htold)
  · exact htold

/-- With the rail OFF every pulse is cut that is still live (R132, R137). -/
theorem railRight_cutLive {s : State} (h : s.railRightBut (allFin 24)) : s.cutLive.railRight := by
  have hcut : ∀ (l : List Chan) (t : State), t.railRightBut l →
      (l.foldl (fun t c => if (t.chan c).phase.isLive then t.abortPulse c else t) t).railRightBut [] := by
    intro l
    induction l with
    | nil => exact fun _ ht => ht
    | cons c l ih =>
      refine fun t ht => ih _ ?_
      dsimp only
      split
      · exact railRightBut_abortPulse ht
      · rename_i hrest
        refine ⟨fun d hlive => (ht.1 d hlive).imp_right (.imp_right fun hmem => ?_), ht.2⟩
        rcases List.mem_cons.mp hmem with rfl | hmem
        · exact absurd hlive hrest
        · exact hmem
  unfold State.cutLive
  split
  · rw [← railRightBut_nil]
    exact hcut _ _ h
  · rename_i hrail
    refine ⟨fun c hlive => (h.1 c hlive).resolve_right fun hoff => hrail ?_, h.2⟩
    rw [hoff.1]
    rfl

/-- A change of mode cuts what is live before it lets anything be granted (R130, R132, R134, R137). -/
theorem State.railRight.changeMode {s : State} (h : s.railRight) (mode : Mode) : (s.changeMode mode).railRight := by
  have B := kept_railRightBut (allFin 24)
  have K := kept_railRight
  have hmarked : (s.marked mode).railRightBut (allFin 24) :=
    KeptCore.foldl (fun _ p hs => B.markRing (abortMark mode) p hs) _ _ (railRightBut_entered h mode)
  have haborted : (s.aborted mode).railRightBut (allFin 24) :=
    KeptCore.foldl (fun _ p hs => B.abortPort (abortMark mode).status p hs) _ _ hmarked
  have htold := KeptCore.foldl (fun _ x hs => B.reflexModeChange mode x hs) (allFin 16) _
    (B.doAll false ((abortedPorts mode).map Work.takes) haborted)
  have hoffered := K.offerAndExamine s.arbiter.joins (railRight_cutLive htold)
  rw [changeMode_eq, State.settled]
  refine K.setModeEdges ?_
  split
  · exact K.redriveAll _ hoffered
  · exact hoffered

namespace State.railRight

variable {s : State} (h : s.railRight)
include h

/-! ## Alarms and the rail -/

theorem noShort (c : Chan) : (s.modChan c fun ch => { ch with shortAt := none }).railRight :=
  h.congr (phase_modChan rfl) rfl rfl

theorem raiseAlarm (cause : AlarmCause) : (s.raiseAlarm cause).railRight := by
  unfold State.raiseAlarm
  split
  · exact h
  · exact State.railRight.changeMode (s := { s with control := { s.control with
      alarm := some ⟨cause, s.time, none, 0⟩ } }) h .alarm

theorem takeShortCheck (c : Chan) : (s.takeShortCheck c).railRight := by
  unfold State.takeShortCheck
  split
  · exact (h.noShort c).raiseAlarm _
  · split <;> exact h

theorem takeRailLoss : s.takeRailLoss.railRight := by
  unfold State.takeRailLoss
  split
  · exact raiseAlarm (s := { s with control := { s.control with railLossAt := none } }) h .railLost
  · split <;> exact h

/-- A SETTLING rail is not the rail of IDLE or ALARM, so that it may turn ON (R134, R135). -/
theorem takeSettle : s.takeSettle.railRight := by
  unfold State.takeSettle
  split
  · rename_i hdue
    have hrail : s.control.rail ≠ .off := fun hoff => by simp [State.settleDue, hoff] at hdue
    have hon : State.railRight { s with control := { s.control with rail := .on } } :=
      ⟨fun _ _ => rfl, fun hmode => absurd (h.2 hmode) hrail⟩
    split
    · exact kept_railRight.examine (KeptCore.foldl (fun _ c hs => kept_railRight.startShort c hs) _ _ hon)
    · exact h.raiseAlarm _
  · exact h

/-! ## Switches and reflexes -/

theorem arriveRequest (x : ReflexNo) : (s.arriveRequest x).railRight := by
  have K := kept_railRight
  unfold State.arriveRequest
  split
  · exact h
  · split
    · exact h
    · exact h
    · exact K.doAll true _ (K.enqueue true _ _ (K.setArrivals _ _ h))

theorem withdraw (x : ReflexNo) : (s.withdraw x).railRight := by
  have K := kept_railRight
  unfold State.withdraw
  dsimp only
  split
  · exact h
  · exact K.doAll true _ (K.leaveQueue true _ _ (K.modReflex x _ h))

theorem reflexAct (x : ReflexNo) (close : Bool) : (s.reflexAct x close).2.railRight := by
  have htrigger : (s.trigger x).railRight := arriveRequest (kept_railRight.modReflex x _ h) x
  unfold State.reflexAct
  split
  · unfold State.openEdge
    split
    · exact h.withdraw x
    · exact h
    · split
      · exact h
      · split
        · rename_i hruns
          exact kept_railRight.endPulse _ _ _ (KeptCore.hasPulse_of_runs hruns) h
        · exact h
    · exact h
    · exact h
  · unfold State.triggerEdge
    dsimp only
    split
    · split
      · exact htrigger
      · exact htrigger
      · split
        · exact h.changeMode .tilt
        · exact h
    · exact h

omit h in
theorem reflexEdge (n : SwitchNo) (close : Bool) (l : List ReflexNo) :
    ∀ named (s : State), s.railRight → (Machine.reflexEdge n close l named s).2.railRight := by
  induction l with
  | nil => exact fun _ _ h => h
  | cons x l ih =>
    intro named s h
    rw [Machine.reflexEdge]
    split
    · exact ih _ _ (h.reflexAct x close)
    · exact ih _ _ h

theorem offerEvent (ev : SwitchEvent) (p : Port) : (s.offerEvent ev p).railRight := by
  unfold State.offerEvent
  split <;> exact h

theorem edge (n : SwitchNo) (close : Bool) : (s.edge n close).railRight := by
  unfold State.edge
  exact KeptCore.foldl (P := State.railRight) (fun _ p hs => offerEvent hs _ p) _ _
    (reflexEdge n close (allFin 16) none s h)

theorem debounced (n : SwitchNo) : (s.debounced n).railRight :=
  edge (s := s.modSwitch n fun sw => { sw with closed := !(s.switchAt n).closed, debounceAt := none }) h n _

theorem takeDebounce (n : SwitchNo) : (s.takeDebounce n).railRight := by
  unfold State.takeDebounce
  split
  · exact h.debounced n
  · exact h

theorem rawChange (n : SwitchNo) (high : Bool) : (s.rawChange n high).railRight := by
  unfold State.rawChange
  dsimp only
  split
  · exact h
  · split
    · exact h
    · split
      · exact debounced (s := { s with pins := { s.pins with switch := s.pins.switch.set n high } }) h n
      · exact h

theorem takeSense (c : Chan) (high : Bool) : (s.takeSense c high).railRight := by
  unfold State.takeSense
  dsimp only
  split
  · exact kept_railRight.startShort c h
  · exact h.noShort c

theorem takeRailok (high : Bool) : (s.takeRailok high).railRight := by
  unfold State.takeRailok
  dsimp only
  split
  · exact h
  · split <;> exact h

/-! ## The commands -/

theorem writeProfile (c : Chan) (pr : Profile) : (s.writeProfile c pr).railRight := by
  have K := kept_railRight
  have hwritten : ((s.updateHeat c).modChan c fun ch =>
      { ch with profile := pr, effectiveFold := pr.foldDutyInForce }).railRight :=
    (K.heat s c h).congr (phase_modChan rfl) rfl rfl
  unfold State.writeProfile
  dsimp only
  split
  · split
    · exact hwritten.rests c rfl
    · exact hwritten
  · split
    · exact K.doAll true _ (K.depart true c (K.setFront c _ hwritten))
    · exact K.doAll true _ (K.withdrawRequests c _ (K.depart true c (K.setFront c _ (hwritten.rests c rfl))))
  · exact hwritten

/-- A test of a command leaves the state as it is when it fails (R166). -/
theorem tested {c : Prop} [Decidable c] {status : Status} {a : Answer} (hpass : a.state.railRight) :
    (if c then Answer.refuse status s else a).state.railRight := by
  split
  · exact h
  · exact hpass

theorem answerWriteProfile (p : Port) (b : Byte) (r : ProfileRecord) :
    (Machine.answerWriteProfile p b r s).state.railRight := by
  refine h.tested ?_
  split
  · exact h
  · exact h.tested (h.tested (h.tested (h.tested (h.writeProfile _ _))))

theorem answerClearFault (p : Port) (b : Byte) : (Machine.answerClearFault p b s).state.railRight := by
  refine h.tested ?_
  split
  · exact h
  · rename_i c _
    have hrests : (s.setPhase c (if (s.chan c).profile.enabled then .idle else .offline)).railRight :=
      h.rests c (by split <;> rfl)
    split
    · exact hrests.congr (phase_modChan rfl) rfl rfl
    · exact h

theorem answerWriteRail (p : Port) (b v : Byte) : (Machine.answerWriteRail p b v s).state.railRight :=
  h.tested (h.tested (kept_railRight.examine h))

theorem answerSetMode (p : Port) (b : Byte) : (Machine.answerSetMode p b s).state.railRight := by
  unfold Machine.answerSetMode
  split
  · exact h
  · exact h.tested (h.tested (h.changeMode _))

theorem answerClearAlarm (p : Port) : (Machine.answerClearAlarm p s).state.railRight :=
  h.tested (h.tested (h.tested (h.changeMode .idle)))

theorem answerWriteSwitchConfig (p : Port) (n : Byte) (high : Bool) (a b : Byte) :
    (Machine.answerWriteSwitchConfig p n high a b s).state.railRight := by
  refine h.tested ?_
  split
  · exact h
  · exact h.tested (h.tested h)

theorem answerWriteReflex (p : Port) (x : Byte) (r : ReflexRecord) :
    (Machine.answerWriteReflex p x r s).state.railRight := by
  refine h.tested ?_
  split
  · exact h
  · split
    · exact h
    · exact h.tested (h.tested h)

theorem answerWriteLampConfig (p : Port) (f : BitVec 40) (t : BitVec 16) (l : Byte) :
    (Machine.answerWriteLampConfig p f t l s).state.railRight :=
  h.tested (kept_railRight.serveStaging h)

/-- No command makes a pulse live but on an ON rail. -/
theorem answer (c : Command) (p : Port) : (c.answer p s).state.railRight := by
  have K := kept_railRight
  cases c with
  | portReset | readClock | setAlarmTime | disarm | readRing | readRail | readAlarm | readSwitches | subscribe
  | readSwitchEvents | writeAttention | takeEvent => exact h
  | tableReset =>
    simp only [Command.answer, answerTableReset]
    split <;> exact h
  | readProfile c =>
    simp only [Command.answer, answerReadProfile]
    split <;> exact h
  | readReflex x =>
    simp only [Command.answer, answerReadReflex]
    split <;> exact h
  | readLamps l =>
    simp only [Command.answer, answerReadLamps]
    split <;> exact h
  | postOrder o => exact K.answerPostOrder p o h
  | cancelOrder tag => exact K.answerCancelOrder p tag h
  | readCompletions => exact K.answerReadCompletions p h
  | readChannel c => exact K.answerReadChannel p c h
  | writeLamps w => exact K.answerWriteLamps p w h
  | writeProfile c r => exact h.answerWriteProfile p c r
  | clearFault c => exact h.answerClearFault p c
  | writeRail b v => exact h.answerWriteRail p b v
  | setMode b => exact h.answerSetMode p b
  | clearAlarm => exact h.answerClearAlarm p
  | writeSwitchConfig n high a b => exact h.answerWriteSwitchConfig p n high a b
  | writeReflex x r => exact h.answerWriteReflex p x r
  | writeLampConfig f t l => exact h.answerWriteLampConfig p f t l

/-! ## The links -/

theorem takeFrame (p : Port) (f : Frame) : (s.takeFrame p f).railRight := by
  have hanswer : (frameAnswer p f s).state.railRight := by
    unfold frameAnswer
    split
    · exact h
    · exact h.answer _ p
  exact hanswer

theorem frameComplete (p : Port) (f : Frame) : (s.frameComplete p f).railRight := by
  unfold State.frameComplete
  split
  · exact h.takeFrame p f
  · exact h
  · exact h

theorem receiveDone (p : Port) : (s.receiveDone p).railRight := h

theorem takeByte (p : Port) (b : Byte) : (s.takeByte p b).railRight := by
  unfold State.takeByte
  split
  · split <;> exact h
  · dsimp only
    split
    · exact (h.receiveDone p).frameComplete p _
    · exact h
  · exact h

theorem takeGap (p : Port) : (s.takeGap p).railRight := by
  unfold State.takeGap
  split
  · split
    · exact h
    · exact h
    · exact (h.receiveDone p).frameComplete p _
  · exact h

omit h in
/-- After a table reset every channel is OFFLINE, the mode IDLE and the rail OFF (R36, R142). -/
theorem tableReset (s : State) : s.tableReset.railRight := by
  refine ⟨fun c hlive => ?_, fun _ => rfl⟩
  rw [chan_tableReset] at hlive
  cases hlive

theorem takeReplyEnd (p : Port) : (s.takeReplyEnd p).railRight := by
  unfold State.takeReplyEnd
  split
  · unfold State.afterReply
    dsimp only
    split
    · exact kept_railRight.portReset p h
    · exact tableReset _
    · split
      · exact takeFrame (s := (s.modLink p fun l => { l with sending := none }).modLink p fun l =>
          { l with held := none }) h p _
      · exact h
  · exact h

theorem commandRow (c : Command) (p : Port) : (Machine.commandRow p (c.answer p) s).railRight :=
  ((h.takeReplyEnd p).takeReplyEnd p).answer c p

/-! ## The clock -/

theorem take (e : Due) : (e.take s).railRight := by
  have K := kept_railRight
  cases e with
  | gap p => exact h.takeGap p
  | debounce n => exact h.takeDebounce n
  | comparator p => exact K.takeComparator p h
  | lapse p => exact K.takeLapse p h
  | dueTime p tag => exact K.takeDueTime p tag h
  | kickEnd c => exact K.takeKickEnd c h
  | senseDelay c => exact K.takeSenseDelay c h
  | maxOn c => exact K.takeMaxOn c h
  | fold c => exact K.takeFold c h
  | recycle c => exact K.takeRecycle c h
  | cooling c => exact K.takeCooling c h
  | shortCheck c => exact h.takeShortCheck c
  | settle => exact h.takeSettle
  | railLoss => exact h.takeRailLoss
  | lampPhase r => exact K.redriveAll _ h
  | coolDown l => exact K.takeCoolDown l h
  | inrush l => exact K.takeInrush l h
  | lateShort c =>
    simp only [Due.take, State.lateShort]
    split
    · exact takeShortCheck (s := s.choose) h c
    · exact h
  | lateRailLoss =>
    simp only [Due.take, State.lateRailLoss]
    split
    · exact takeRailLoss (s := s.choose) h
    · exact h

theorem takeOneDue : s.takeOneDue.railRight := by
  unfold State.takeOneDue
  split
  · exact h
  · exact h.take _
  · exact take (s := s.choose) h _

omit h in
theorem takeDues (n : Nat) : ∀ s : State, s.railRight → (Machine.takeDues n s).railRight := by
  induction n with
  | zero => exact fun _ h => h
  | succ n ih => exact fun s h => ih _ h.takeOneDue

theorem tick : s.tick.railRight := h

theorem advance : s.advance.railRight := by
  unfold State.advance State.settleValue
  exact tick (takeDues _ s h)

/-! ## The rows -/

theorem event {act : State → State} {t : State} (hact : (act s).railRight) (hexec : Machine.event act s = .next t) :
    t.railRight := by
  unfold Machine.event at hexec
  split at hexec
  · cases hexec
    exact hact
  · cases hexec
    exact h

/-- The row of a monitored input: a level already there is no change, and without supply the pins alone move
(R31, R110, R136, R173). -/
theorem pinRow {same : Prop} [Decidable same] {moved level t : State} (hmoved : moved.railRight)
    (hlevel : level.railRight)
    (hexec : (if same then Host.Outcome.next s
      else if s.powered then .next moved.decideLines else .next level : Host.Outcome State Fault Refusal) = .next t) :
    t.railRight := by
  split at hexec
  · cases hexec
    exact h
  · split at hexec <;> cases hexec
    · exact hmoved
    · exact hlevel

theorem exec {i : Instr} {t : State} (hexec : Machine.exec i s = .next t) : t.railRight := by
  cases rowKind_all i with
  | command c p =>
    rw [exec_row] at hexec
    exact h.event (h.commandRow c p) hexec
  | due _ e _ he =>
    rw [he] at hexec
    exact h.event (h.take e) hexec
  | advance => exact h.event h.advance hexec
  | powerOn | supplyFall =>
    cases hexec
    exact reset_railRight
  | resetnFall =>
    simp only [Machine.exec, execResetnFall] at hexec
    split at hexec
    · split at hexec <;> cases hexec
      · exact tableReset _
      · exact h
    · cases hexec
      exact h
  | resetnRise =>
    cases hexec
    exact h
  | receiveByte p b => exact h.event (act := (State.takeByte · p b)) (h.takeByte p b) hexec
  | replyEnd p => exact h.event (act := (State.takeReplyEnd · p)) (h.takeReplyEnd p) hexec
  | switchRawChange n high => exact h.pinRow (h.rawChange n high) (by exact h) hexec
  | senseChange c high => exact h.pinRow (h.takeSense c high) (by exact h) hexec
  | railokChange high => exact h.pinRow (h.takeRailok high) (by exact h) hexec

end State.railRight

/-- Settles O58: a live pulse stands on an ON rail, and the rail is OFF in IDLE and ALARM, after every command
(`State.railRight.exec`); what a change of mode leaves live on an OFF rail it cuts (`railRight_cutLive`). -/
theorem noLivePulseWithoutTheRail : Obligations.NoLivePulseWithoutTheRail := by
  refine ⟨fun _ _ _ h hexec => h.exec hexec, fun s c h hphase => ?_⟩
  obtain ⟨hdriven, hrests⟩ := h
  have hon : s.control.rail = .on := hdriven c (by rcases hphase with hp | hp | hp <;> rw [hp] <;> rfl)
  have hworks : ¬(s.control.mode = .idle ∨ s.control.mode = .alarm) := fun hmode => by
    rw [hrests hmode] at hon
    cases hon
  refine ⟨hon, ?_⟩
  cases hmode : s.control.mode <;> simp [hmode] at hworks ⊢

end Sys2Proof.Machine

/-!
SET MODE, CLEAR ALARM and READ ALARM: their tests, and the settings with which a mode is entered.
-/

namespace Sys2Proof.Machine

/-! ## The tests of SET MODE -/

theorem targetPermitted_iff (p : Port) (target : Mode) :
    targetPermitted p target = true ↔
    target ≠ .alarm ∧ (p = .p0 ∧ target ≠ .service ∨ p = .p2 ∧ target ≠ .game ∧ target ≠ .tilt) := by
  cases p <;> cases target <;> simp [targetPermitted]

theorem mayEnter_iff (p : Port) (target mode : Mode) :
    mayEnter p target mode = true ↔
      p = .p0 ∧ (target = .idle ∧ (mode = .attract ∨ mode = .game ∨ mode = .tilt)
        ∨ target = .attract ∧ (mode = .idle ∨ mode = .game ∨ mode = .tilt)
        ∨ target = .game ∧ (mode = .idle ∨ mode = .attract ∨ mode = .tilt)
        ∨ target = .tilt ∧ mode = .game)
      ∨ p = .p2 ∧ ((target = .idle ∨ target = .attract) ∧ mode = .service
        ∨ target = .service ∧ (mode = .idle ∨ mode = .attract)) := by
  cases p <;> cases target <;> cases mode <;> simp [mayEnter]

/-- A mode's code is the byte that named it. -/
theorem byte_code_of_modeOf {b : Byte} {target : Mode} (h : modeOf b = some target) : byte target.code = b := by
  rw [← byte_toNat b]
  unfold modeOf at h
  split at h <;> cases h <;> rename_i hb <;> rw [hb] <;> rfl

theorem answerSetMode_notPermitted {s : State} {p : Port} {b : Byte}
    (h : ∀ target, modeOf b = some target → targetPermitted p target = false) :
    answerSetMode p b s = .refuse .notPermitted s := by
  unfold answerSetMode
  split
  · rfl
  · rename_i target hmode
    rw [h target hmode]
    rfl

/-- The answer to a SET MODE within the port's reach (R128, test 2). -/
theorem answerSetMode_of_permitted {s : State} {p : Port} {b : Byte} {target : Mode} (hmode : modeOf b = some target)
    (htarget : targetPermitted p target = true) :
    answerSetMode p b s =
      if mayEnter p target s.control.mode = true ∧ s.pins.resetn = true then
        ⟨.ok, [byte (s.changeMode target).control.mode.code], s.changeMode target⟩
      else .refuse .wrongMode s := by
  cases hmay : mayEnter p target s.control.mode <;> cases hreset : s.pins.resetn <;>
    simp [answerSetMode, hmode, htarget, hmay, hreset]

/-! ## The tests of CLEAR ALARM -/

theorem anySense_iff (s : State) : s.pins.sense.toList.any id = true ↔ ∃ c : Chan, s.pins.sense[c] = true := by
  simp only [List.any_eq_true, id, exists_eq_right]
  rw [Vector.mem_toList_iff, Vector.mem_iff_getElem]
  exact ⟨fun ⟨n, hn, h⟩ => ⟨⟨n, hn⟩, h⟩, fun ⟨c, h⟩ => ⟨c.val, c.isLt, h⟩⟩

/-! ## What a command that changes the mode answers -/

/-- The mode and the rail with which a mode is entered, and the alarm record, which is kept (R134, R140). -/
theorem entered_control (s : State) {mode : Mode} (halarm : mode ≠ .alarm) :
    (s.entered mode).control.rail =
        (if mode = .idle then .off
          else if s.control.mode = .idle then .settling (s.now + 2000) else s.control.rail)
      ∧ (s.entered mode).control.alarm = s.control.alarm := by
  unfold State.entered State.railFor
  split
  · exact ⟨rfl, rfl⟩
  · exact absurd rfl halarm
  · rename_i hidle _
    rw [if_neg hidle]
    split
    · rename_i hleft
      rw [if_pos hleft]
      exact ⟨rfl, rfl⟩
    · rename_i hleft
      rw [if_neg hleft]
      exact ⟨rfl, rfl⟩

theorem kept_link (s : State) : KeptCore fun t => ∀ p, (t.port p).link = (s.port p).link where
  ports _ v hv h q := by
    obtain ⟨-, hlink, -⟩ := hv q
    exact hlink.trans (h q)
  table _ _ _ h := h
  coil _ _ _ _ _ _ _ h := h
  note _ _ _ _ _ h := h
  heat _ _ h := h
  list _ _ _ h := h
  reflexes _ _ h := h
  lamps _ _ _ h := h
  free _ _ h := h

theorem railFor_ports (s : State) (left entered : Mode) : (s.railFor left entered).ports = s.ports := by
  unfold State.railFor
  split
  · rfl
  · rfl
  · split <;> rfl

/-- A change of mode leaves every link port as it was. -/
theorem changeMode_link (s : State) (mode : Mode) (p : Port) : (s.changeMode mode).link p = s.link p :=
  (kept_link s).changeMode s mode
    (fun q => congrArg (fun ports : PerPort PortState => (ports.get q).link) (railFor_ports _ _ _)) p

/-- A reply leaves the edge flags of every port, and stands in its own port's transmitter (R158, R167). -/
theorem answered_modeEdge (s : State) (p q : Port) (status : Status) (body : List Byte) :
    ((s.answered p status body).port q).attention.modeEdge = (s.port q).attention.modeEdge := by
  rw [State.answered, port_decideLines]
  by_cases h : p = q
  · subst h; simp [PortState.decideLine]
  · simp [PortState.decideLine, h]

theorem answered_sending (s : State) (p : Port) (status : Status) (body : List Byte) :
    ((s.answered p status body).link p).sending = some (replyFrame status (s.link p).lost s.control.mode body) := by
  rw [State.link, State.answered, port_decideLines, State.port_modPort_self]
  rfl

/-- The reply of an accepted SET MODE or CLEAR ALARM, and the settings with which the mode is entered. -/
theorem changeMode_answered (s : State) (p : Port) {target : Mode} (halarm : target ≠ .alarm) (body : List Byte) :
    let t := (s.changeMode target).answered p .ok body
    t.control.mode = target
      ∧ t.control.rail =
        (if target = .idle then .off
          else if s.control.mode = .idle then .settling (s.now + 2000) else s.control.rail)
      ∧ t.control.alarm = s.control.alarm
      ∧ (∀ q, (t.port q).attention.modeEdge = true)
      ∧ (t.link p).sending = some (replyFrame .ok (s.link p).lost target body) := by
  intro t
  have hcontrol : t.control = (s.entered target).control := (changeMode_sameSettings s target).control
  have hmode : (s.changeMode target).control.mode = target :=
    (congrArg Control.mode hcontrol).trans (entered_mode s target)
  obtain ⟨hrail, hrecord⟩ := entered_control s halarm
  have hsending := answered_sending (s.changeMode target) p .ok body
  rw [hmode, changeMode_link] at hsending
  exact ⟨hmode, by rw [hcontrol, hrail], by rw [hcontrol, hrecord],
    fun q => (answered_modeEdge _ p q .ok body).trans (changeMode_modeEdge s target q), hsending⟩

/-- Settles O42: each command is its block's answer (`exec_row_of_ready`); an accepted one changes the mode
(`changeMode_answered`). -/
theorem modeAndAlarmCommands : Obligations.ModeAndAlarmCommands := by
  refine ⟨fun s p b hs => ?_, fun s p hs => ?_⟩
  · have hset := exec_row_of_ready hs (.setMode b)
    simp only [Command.answer] at hset
    refine ⟨fun hwrong => ?_, fun target hmode halarm hport => ?_⟩
    · rw [answerSetMode_notPermitted fun target hmode => ?_] at hset
      · exact hset
      · rw [Bool.eq_false_iff, ne_eq, targetPermitted_iff]
        rintro ⟨halarm, hport⟩
        simp only [hmode, reduceCtorEq, false_or, Option.some.injEq, halarm] at hwrong
        rcases hport with ⟨rfl, hservice⟩ | ⟨rfl, hgame, htilt⟩
        · simp [hservice] at hwrong
        · simp [hgame, htilt] at hwrong
    · intro mode table
      have htable : mayEnter p target s.control.mode = true ↔ table := mayEnter_iff p target s.control.mode
      rw [answerSetMode_of_permitted hmode ((targetPermitted_iff p target).mpr ⟨halarm, hport⟩)] at hset
      refine ⟨fun hwrong => ?_, fun henters hreset => ?_⟩
      · rw [if_neg (by rintro ⟨hmay, hreset⟩; simp [htable.mp hmay, hreset] at hwrong)] at hset
        exact hset
      · rw [if_pos ⟨htable.mpr henters, hreset⟩] at hset
        have hchanged := changeMode_answered s p halarm [b]
        have hcode : byte (s.changeMode target).control.mode.code = b := by
          rw [show (s.changeMode target).control.mode = target from hchanged.1]
          exact byte_code_of_modeOf hmode
        rw [hcode] at hset
        exact ⟨_, hset, hchanged⟩
  · have hclear := exec_row_of_ready hs .clearAlarm
    have hread := exec_row_of_ready hs .readAlarm
    simp only [Command.answer, answerClearAlarm, answerReadAlarm] at hclear hread
    refine ⟨fun hp => ?_, fun hp hmode => ?_, fun hp hmode hsense => ?_, fun hp hmode hsense => ?_, ?_⟩
    · rw [if_pos hp] at hclear
      exact hclear
    · rw [if_neg hp, if_pos (by simpa using hmode)] at hclear
      exact hclear
    · rw [if_neg hp, if_neg (by simp [hmode]), if_pos ((anySense_iff s).mpr hsense)] at hclear
      exact hclear
    · have hlow : ¬s.pins.sense.toList.any id = true := fun hany => by
        obtain ⟨c, hc⟩ := (anySense_iff s).mp hany
        rw [hsense c] at hc
        cases hc
      rw [if_neg hp, if_neg (by simp [hmode]), if_neg hlow] at hclear
      obtain ⟨hidle, hrail, hrecord, hedges, hsending⟩ := changeMode_answered s p (target := .idle) nofun []
      exact ⟨_, hclear, hidle, hrail, hrecord, hedges, hsending⟩
    · refine hread.trans ?_
      unfold State.alarmBytes
      cases s.control.alarm with
      | none => rfl
      | some a =>
        obtain ⟨cause, time, later, laterCount⟩ := a
        cases later <;> rfl

end Sys2Proof.Machine

/-!
SUPPORT. The lamps: a write of one lamp with the staging list, what the decision of a lamp's drive level writes, and
what a run of such decisions makes of each lamp.
-/

namespace Sys2Proof.Machine

/-! ## A lamp and the staging list -/

/-- The state with one lamp and the staging list replaced. -/
def State.putLamp (s : State) (l : LampNo) (lamp : Lamp) (staging : List LampNo) : State :=
  { s with
    lampUnit := { s.lampUnit with lamps := s.lampUnit.lamps.set l lamp, staging := staging } }

theorem modLamp_eq_putLamp (s : State) (l : LampNo) (f : Lamp → Lamp) :
    s.modLamp l f = s.putLamp l (f (s.lamp l)) s.lampUnit.staging := rfl

theorem modLamp_putLamp (s : State) (l : LampNo) (lamp : Lamp) (staging : List LampNo) (f : Lamp → Lamp) :
    (s.putLamp l lamp staging).modLamp l f = s.putLamp l (f lamp) staging := by
  simp [State.putLamp, State.modLamp]

/-- A state in which the list alone is replaced keeps each lamp. -/
theorem putLamp_self (s : State) (l : LampNo) (staging : List LampNo) :
    s.putLamp l (s.lamp l) staging = { s with lampUnit := { s.lampUnit with staging := staging } } := by
  have hlamps : s.lampUnit.lamps.set l (s.lamp l) = s.lampUnit.lamps := Vector.set_getElem_self l.isLt
  rw [State.putLamp, hlamps]

/-- A lamp after a write of one lamp and the list. -/
theorem lamp_putLamp (s : State) (k l : LampNo) (lamp : Lamp) (staging : List LampNo) :
    (s.putLamp k lamp staging).lamp l = if k = l then lamp else s.lamp l := by
  by_cases h : k = l
  · subst h; simp [State.lamp, State.putLamp]
  · have h' : k.val ≠ l.val := fun e => h (Fin.ext e)
    simp [State.lamp, State.putLamp, h, h']

/-- A lamp after a change of one lamp. -/
theorem State.lamp_modLamp (s : State) (k l : LampNo) (f : Lamp → Lamp) :
    (s.modLamp k f).lamp l = if k = l then f (s.lamp k) else s.lamp l :=
  lamp_putLamp s k l _ _

/-! ## The cells of a lamp -/

/-- Two lamps with the same cells. -/
structure Lamp.SameCells (a b : Lamp) : Prop where
  showLayer : a.showCell = b.showCell
  rules : a.rulesCell = b.rulesCell
  test : a.testCell = b.testCell

namespace Lamp.SameCells

variable {a b c : Lamp}

theorem refl (a : Lamp) : a.SameCells a := ⟨rfl, rfl, rfl⟩

theorem trans (h : a.SameCells b) (h' : b.SameCells c) : a.SameCells c :=
  ⟨h.showLayer.trans h'.showLayer, h.rules.trans h'.rules, h.test.trans h'.test⟩

theorem composite (h : a.SameCells b) (mode : Mode) : a.composite mode = b.composite mode := by
  unfold Lamp.composite
  rw [h.showLayer, h.rules, h.test]

theorem driveLevel (h : a.SameCells b) (mode : Mode) (time : TableTime) :
    a.driveLevel mode time = b.driveLevel mode time := by
  unfold Lamp.driveLevel
  rw [h.composite]

theorem unlit (h : a.SameCells b) (mode : Mode) : a.unlit mode = b.unlit mode := by
  unfold Lamp.unlit
  rw [h.composite]

end Lamp.SameCells

/-! ## The decision of a drive level -/

/-- The level that a lamp's cells ask for now (R146). -/
def State.levelOf (s : State) (l : LampNo) : Nat := (s.lamp l).driveLevel s.control.mode s.time

/-- A rise of the drive level from 0 (R150). -/
abbrev State.Starts (s : State) (l : LampNo) : Prop := (s.lamp l).drive = 0 ∧ 0 < s.levelOf l

/-- A lamp whose start takes an inrush slot (R150). -/
abbrev Lamp.Cold (lamp : Lamp) : Prop := lamp.inrush = true ∧ lamp.warm = false

/-- A slot is free (R151). -/
abbrev LampUnit.Free (u : LampUnit) : Prop := u.slotsInUse < u.slotLimit

/-- Whether a lamp is WARM after its decision (R150, R151). -/
def State.warmAfter (s : State) (l : LampNo) : Bool :=
  (s.lamp l).warm || decide (s.Starts l ∧ ((s.lamp l).inrush = false ∨ (s.lamp l).Cold ∧ s.lampUnit.Free))

/-- A lamp after the decision of its drive level (R148 to R151). -/
def State.drivenLamp (s : State) (l : LampNo) : Lamp :=
  let lamp := s.lamp l
  { lamp with
    drive := s.levelOf l
    warm := s.warmAfter l
    slotAt :=
      if s.Starts l ∧ lamp.Cold ∧ s.lampUnit.Free then some (s.now + s.lampUnit.inrushTime) else lamp.slotAt
    coolAt :=
      if s.warmAfter l = true ∧ lamp.unlit s.control.mode = true then lamp.coolAt.or (some (s.now + 5000))
      else none }

/-- The staging list after the decision of a lamp's drive level (R150, R152). -/
def State.drivenStaging (s : State) (l : LampNo) : List LampNo :=
  if s.Starts l ∧ (s.lamp l).Cold ∧ ¬s.lampUnit.Free then s.lampUnit.staging ++ [l]
  else if (s.lamp l).drive ≠ 0 ∧ s.levelOf l = 0 then s.lampUnit.staging.filter fun m => m ≠ l
  else s.lampUnit.staging

/-- The cool-down of a lamp whose drive level has been set (R149). -/
theorem decideCoolDown_eq (lamp : Lamp) (level : Nat) (mode : Mode) (now : Nat) :
    { lamp with drive := level }.decideCoolDown mode now =
      { lamp with
        drive := level
        coolAt :=
          if lamp.warm = true ∧ lamp.unlit mode = true then lamp.coolAt.or (some (now + 5000)) else none } := by
  have hunlit : { lamp with drive := level }.unlit mode = lamp.unlit mode :=
    Lamp.SameCells.unlit ⟨rfl, rfl, rfl⟩ mode
  simp only [Lamp.decideCoolDown, hunlit, Bool.and_eq_true]
  split <;> rfl

/-- The start of a lamp: at once with its flag clear or the lamp WARM, by a slot if one is free, else staged (R150). -/
theorem startLamp_eq (s : State) (l : LampNo) :
    s.startLamp l = s.putLamp l
      { s.lamp l with
        warm := (s.lamp l).warm || decide ((s.lamp l).inrush = false ∨ (s.lamp l).Cold ∧ s.lampUnit.Free)
        slotAt :=
          if (s.lamp l).Cold ∧ s.lampUnit.Free then some (s.now + s.lampUnit.inrushTime) else (s.lamp l).slotAt }
      (if (s.lamp l).Cold ∧ ¬s.lampUnit.Free then s.lampUnit.staging ++ [l] else s.lampUnit.staging) := by
  have hself : s.putLamp l (s.lamp l) s.lampUnit.staging = s := putLamp_self s l _
  have hstage : s.stage l = s.putLamp l (s.lamp l) (s.lampUnit.staging ++ [l]) := (putLamp_self s l _).symm
  simp only [State.startLamp, State.grantSlot, hstage, modLamp_eq_putLamp]
  generalize s.lamp l = lamp at hself ⊢
  obtain ⟨showCell, rulesCell, testCell, inrush, warm, coolAt, drive, slotAt⟩ := lamp
  cases inrush with
  | false => simp [Lamp.Cold]
  | true =>
    cases warm with
    | true => simpa [Lamp.Cold] using hself.symm
    | false => by_cases hfree : s.lampUnit.Free <;> simp [Lamp.Cold, hfree]

/-- What the change of a lamp's drive level starts or ends, before the level is written (R148). -/
def State.acted (s : State) (l : LampNo) : State :=
  if (s.lamp l).drive == s.levelOf l then s
  else if (s.lamp l).drive == 0 then s.startLamp l
  else if s.levelOf l == 0 then s.unstage l
  else s

theorem acted_of_starts {s : State} {l : LampNo} (h : s.Starts l) : s.acted l = s.startLamp l := by
  obtain ⟨hzero, hrise⟩ := h
  have hne : ¬0 = s.levelOf l := by omega
  simp [State.acted, hzero, hne]

/-- A fall to 0 takes the lamp from the list (R152). -/
theorem acted_of_falls {s : State} {l : LampNo} (h : (s.lamp l).drive ≠ 0 ∧ s.levelOf l = 0) :
    s.acted l = s.putLamp l (s.lamp l) (s.lampUnit.staging.filter fun m => m ≠ l) := by
  rw [putLamp_self]
  simp [State.acted, State.unstage, h, bne, beq_eq_decide]

/-- A level that neither rises from 0 nor falls to 0 starts and ends nothing. -/
theorem acted_of_neither {s : State} {l : LampNo} (hstarts : ¬s.Starts l)
    (hfalls : ¬((s.lamp l).drive ≠ 0 ∧ s.levelOf l = 0)) :
    s.acted l = s.putLamp l (s.lamp l) s.lampUnit.staging := by
  rw [putLamp_self, State.acted]
  by_cases hsame : (s.lamp l).drive = s.levelOf l
  · simp [hsame]
  · have hzero : (s.lamp l).drive ≠ 0 := by omega
    have hlevel : s.levelOf l ≠ 0 := fun h => hfalls ⟨hzero, h⟩
    simp [hsame, hzero, hlevel]

/-- The level is written and the cool-down decided after what the change of the level does (R148, R149). -/
theorem redrive_of_acted {s : State} {l : LampNo} {lamp : Lamp} {staging : List LampNo}
    (h : s.acted l = s.putLamp l lamp staging) :
    s.redrive l = s.putLamp l
      { lamp with
        drive := s.levelOf l
        coolAt :=
          if lamp.warm = true ∧ lamp.unlit s.control.mode = true then lamp.coolAt.or (some (s.now + 5000))
          else none } staging := by
  have hdef : s.redrive l = (s.acted l).modLamp l fun lamp =>
      { lamp with drive := s.levelOf l }.decideCoolDown s.control.mode s.now := rfl
  rw [hdef, h, modLamp_putLamp, decideCoolDown_eq]

/-- The decision of a drive level writes its lamp and the staging list alone (R148 to R152). -/
theorem redrive_eq (s : State) (l : LampNo) :
    s.redrive l = s.putLamp l (s.drivenLamp l) (s.drivenStaging l) := by
  unfold State.drivenLamp State.drivenStaging State.warmAfter
  by_cases hstarts : s.Starts l
  · have hfalls : ¬((s.lamp l).drive ≠ 0 ∧ s.levelOf l = 0) := fun h => h.1 hstarts.1
    rw [redrive_of_acted ((acted_of_starts hstarts).trans (startLamp_eq s l))]
    simp only [and_iff_right hstarts, if_neg hfalls]
    rfl
  · simp only [hstarts, false_and, decide_false, Bool.or_false, if_false]
    by_cases hfalls : (s.lamp l).drive ≠ 0 ∧ s.levelOf l = 0
    · rw [redrive_of_acted (acted_of_falls hfalls), if_pos hfalls]
    · rw [redrive_of_acted (acted_of_neither hstarts hfalls), if_neg hfalls]

/-! ## A run of decisions -/

theorem lamp_redrive (s : State) (k l : LampNo) :
    (s.redrive k).lamp l = if k = l then s.drivenLamp k else s.lamp l := by
  rw [redrive_eq, lamp_putLamp]

theorem sameCells_redrive (s : State) (k l : LampNo) : ((s.redrive k).lamp l).SameCells (s.lamp l) := by
  rw [lamp_redrive]
  split
  · rename_i hkl
    subst hkl
    exact ⟨rfl, rfl, rfl⟩
  · exact .refl _

theorem levelOf_redrive (s : State) (k l : LampNo) : (s.redrive k).levelOf l = s.levelOf l := by
  have hlevel := (sameCells_redrive s k l).driveLevel s.control.mode s.time
  rw [redrive_eq] at hlevel ⊢
  exact hlevel

/-- Decisions write the lamp unit alone. -/
theorem foldl_redrive_eq (ls : List LampNo) (s : State) :
    ls.foldl State.redrive s = { s with lampUnit := (ls.foldl State.redrive s).lampUnit } := by
  induction ls generalizing s with
  | nil => rfl
  | cons k ls ih =>
    refine (ih (s.redrive k)).trans ?_
    rw [List.foldl_cons, redrive_eq]
    rfl

theorem lamp_foldl_redrive_of_notMem {ls : List LampNo} {l : LampNo} (h : l ∉ ls) (s : State) :
    (ls.foldl State.redrive s).lamp l = s.lamp l := by
  induction ls generalizing s with
  | nil => rfl
  | cons k ls ih =>
    rw [List.mem_cons, not_or] at h
    obtain ⟨hk, hls⟩ := h
    rw [List.foldl_cons, ih hls, lamp_redrive, if_neg (Ne.symm hk)]

theorem sameCells_foldl_redrive (ls : List LampNo) (l : LampNo) (s : State) :
    ((ls.foldl State.redrive s).lamp l).SameCells (s.lamp l) := by
  induction ls generalizing s with
  | nil => exact .refl _
  | cons k ls ih => exact (ih (s.redrive k)).trans (sameCells_redrive s k l)

/-- Each lamp decided has the level its cells ask for, whichever lamps were decided before and after it. -/
theorem drive_foldl_redrive_of_mem {ls : List LampNo} {l : LampNo} (h : l ∈ ls) (s : State) :
    ((ls.foldl State.redrive s).lamp l).drive = s.levelOf l := by
  induction ls generalizing s with
  | nil => cases h
  | cons k ls ih =>
    rw [List.foldl_cons]
    by_cases hls : l ∈ ls
    · rw [ih hls, levelOf_redrive]
    · obtain rfl : l = k := (List.mem_cons.mp h).resolve_right hls
      rw [lamp_foldl_redrive_of_notMem hls, lamp_redrive, if_pos rfl]
      rfl

theorem mem_allFin_filter {n : Nat} (which : Fin n → Bool) (i : Fin n) :
    i ∈ (allFin n).filter which ↔ which i = true := by
  simp [allFin, List.mem_filter, List.mem_ofFn]

theorem redriveAll_eq (s : State) (which : LampNo → Bool) :
    s.redriveAll which = { s with lampUnit := (s.redriveAll which).lampUnit } :=
  foldl_redrive_eq _ s

theorem lamp_redriveAll_of_not {s : State} {which : LampNo → Bool} {l : LampNo} (h : which l = false) :
    (s.redriveAll which).lamp l = s.lamp l :=
  lamp_foldl_redrive_of_notMem (by simp [h]) s

theorem sameCells_redriveAll (s : State) (which : LampNo → Bool) (l : LampNo) :
    ((s.redriveAll which).lamp l).SameCells (s.lamp l) :=
  sameCells_foldl_redrive _ l s

theorem drive_redriveAll {s : State} {which : LampNo → Bool} {l : LampNo} (h : which l = true) :
    ((s.redriveAll which).lamp l).drive = s.levelOf l :=
  drive_foldl_redrive_of_mem ((mem_allFin_filter which l).mpr h) s

end Sys2Proof.Machine

/-!
The composite of a lamp, the drive it asks for, and the phase event.
-/

namespace Sys2Proof.Machine

/-! ## The composite and its level -/

theorem driveLevel_of_composite_none {lamp : Lamp} {mode : Mode} (h : lamp.composite mode = none)
    (time : TableTime) : lamp.driveLevel mode time = 0 := by
  rw [Lamp.driveLevel, h]

/-- The composite's level in its lit phase, 0 in the other (R146). -/
theorem driveLevel_of_composite {lamp : Lamp} {mode : Mode} {layer : Layer} {light : Light}
    (h : lamp.composite mode = some (layer, light)) (time : TableTime) :
    lamp.driveLevel mode time = if light.litPhase time then light.level else 0 := by
  rw [Lamp.driveLevel, h]

theorem composite_of_test {lamp : Lamp} {light : Light} (h : lamp.testCell = some light) :
    lamp.composite .service = some (.test, light) := by
  simp [Lamp.composite, h]

/-- With the TEST layer not counted or TRANSPARENT, RULES stands above SHOW (R145). -/
theorem composite_of_no_test {lamp : Lamp} {mode : Mode} (h : mode ≠ .service ∨ lamp.testCell = none) :
    lamp.composite mode =
      (lamp.rulesCell.map (Prod.mk .rules)).or (lamp.showCell.map (Prod.mk .showLayer)) := by
  have hcounted : (if mode == .service then lamp.testCell else none) = none := by
    rcases h with hmode | htest
    · simp [hmode]
    · simp [htest]
  unfold Lamp.composite
  rw [hcounted]
  cases lamp.rulesCell <;> cases lamp.showCell <;> rfl

/-- Settles O18: `driveLevel_of_composite` by pattern, `composite_of_test` and `composite_of_no_test`, and for the event
`drive_redriveAll` and `lamp_redriveAll_of_not`. -/
theorem blinkAndPhaseEvents : Obligations.BlinkAndPhaseEvents := by
  refine ⟨⟨fun lamp mode time layer light => ⟨fun h => driveLevel_of_composite_none h time, fun h => ?_⟩,
    fun lamp mode => ⟨?_, ?_, ?_, ?_⟩⟩, fun s r hpowered => ?_⟩
  · rw [driveLevel_of_composite h]
    unfold Light.litPhase phaseIndex halfPeriod
    cases light.pattern with
    | steady => rfl
    | blinkA => simp [Config.blinkHalfPeriod]
    | blinkB => simp [Config.blinkHalfPeriod]
  · rintro light rfl htest
    exact composite_of_test htest
  · intro light hno hrules
    simp [composite_of_no_test hno, hrules]
  · intro light hno hrules hshow
    simp [composite_of_no_test hno, hrules, hshow]
  · intro hno hrules hshow
    simp [composite_of_no_test hno, hrules, hshow]
  · refine ⟨_, event_of_powered hpowered (State.takeLampPhase · r), fun l hblinks => drive_redriveAll hblinks,
      fun l hblinks => lamp_redriveAll_of_not hblinks, ?_⟩
    exact congrArg State.decideLines (redriveAll_eq s _)

end Sys2Proof.Machine

/-!
The expiries of a lamp's cool-down and inrush interval, and the slot limit of the staging list.
-/

namespace Sys2Proof.Machine

/-! ## Slots -/

theorem slotsInUse_eq_countP (u : LampUnit) :
    u.slotsInUse = u.lamps.toList.countP fun lamp => lamp.slotAt.isSome :=
  List.countP_eq_length_filter.symm

/-- A grant takes at most one slot more. -/
theorem slotsInUse_grantSlot_le (s : State) (l : LampNo) :
    (s.grantSlot l).lampUnit.slotsInUse ≤ s.lampUnit.slotsInUse + 1 := by
  have hlen : l.val < s.lampUnit.lamps.toList.length := by simp
  rw [slotsInUse_eq_countP, slotsInUse_eq_countP]
  simp only [State.grantSlot, State.modLamp, Vector.toList_set]
  rw [List.countP_set hlen]
  simp only [Option.isSome_some, if_true]
  omega

/-! ## Serving the staging list -/

theorem serveStaging_of_nil {s : State} (h : s.lampUnit.staging = []) : s.serveStaging = s := by
  rw [State.serveStaging, h, grantStaged]

/-- With no slot free none is granted (R151). -/
theorem serveStaging_of_full {s : State} (h : s.lampUnit.slotLimit ≤ s.lampUnit.slotsInUse) :
    s.serveStaging = s := by
  rw [State.serveStaging]
  cases s.lampUnit.staging with
  | nil => rfl
  | cons l rest => rw [grantStaged, if_neg (Nat.not_lt.mpr h)]

/-- The one lamp staged is granted a slot that is free (R151, R152). -/
theorem serveStaging_of_singleton {s : State} {l : LampNo} (h : s.lampUnit.staging = [l])
    (hfree : s.lampUnit.slotsInUse < s.lampUnit.slotLimit) :
    s.serveStaging = State.grantSlot { s with lampUnit := { s.lampUnit with staging := [] } } l := by
  rw [State.serveStaging, h, grantStaged, if_pos hfree, grantStaged]

/-- The grants go on until no lamp is staged or no slot is free. -/
theorem grantStaged_ends (ls : List LampNo) (s : State) (h : s.lampUnit.staging = ls) :
    (grantStaged ls s).lampUnit.staging = [] ∨
      (grantStaged ls s).lampUnit.slotLimit ≤ (grantStaged ls s).lampUnit.slotsInUse := by
  induction ls generalizing s with
  | nil => exact .inl h
  | cons l rest ih =>
    rw [grantStaged]
    split
    · exact ih _ rfl
    · rename_i hfull
      exact .inr (Nat.not_lt.mp hfull)

/-- No grant goes beyond the limit. -/
theorem slotsInUse_grantStaged_le (ls : List LampNo) (s : State)
    (h : s.lampUnit.slotsInUse ≤ s.lampUnit.slotLimit) :
    (grantStaged ls s).lampUnit.slotsInUse ≤ s.lampUnit.slotLimit := by
  induction ls generalizing s with
  | nil => exact h
  | cons l rest ih =>
    rw [grantStaged]
    split
    · rename_i hfree
      have hgrant := slotsInUse_grantSlot_le { s with lampUnit := { s.lampUnit with staging := rest } } l
      exact ih _ (hgrant.trans hfree)
    · exact h

/-! ## The expiries -/

theorem expired_of_le {s : State} {interval : Option Nat} {expiry : Nat} (h : interval = some expiry)
    (hle : expiry ≤ s.now) : s.expired interval = true := by
  simp [h, State.expired, hle]

/-- Settles O19: an expiry that is due acts, and the staging list is served as its lemmas say. -/
theorem lampExpiries : Obligations.LampExpiries := by
  refine ⟨fun s l expiry hpowered hcool hle => ?_, fun s l expiry hpowered hslot hle => ?_,
    fun s => ⟨grantStaged_ends _ s rfl, slotsInUse_grantStaged_le _ s⟩⟩
  · have hexec : exec (.coolDownExpiry l) s = .next (s.takeCoolDown l).decideLines :=
      event_of_powered hpowered (State.takeCoolDown · l)
    rw [hexec, State.takeCoolDown, if_pos (expired_of_le hcool hle)]
  · have hexec : exec (.inrushExpiry l) s = .next (s.takeInrush l).decideLines :=
      event_of_powered hpowered (State.takeInrush · l)
    rw [hexec, State.takeInrush, if_pos (expired_of_le hslot hle)]
    refine ⟨fun hnone => ?_, fun m hone hfree => ?_⟩
    · rw [serveStaging_of_nil (by exact hnone)]
    · rw [serveStaging_of_singleton (by exact hone) (by exact hfree)]
      rfl

end Sys2Proof.Machine

/-!
WRITE LAMPS: its tests, the cells it writes, and the decisions it and a phase event make.
-/

namespace Sys2Proof.Machine

/-! ## The tests of WRITE LAMPS -/

theorem lampOf_eq_none_iff (b : Byte) : lampOf b = none ↔ 40 ≤ b.toNat := by
  simp [lampOf]

theorem inRange_of_cellsOf_cons {w : CellWrite} {writes : List CellWrite} {cells : List (LampNo × Option Light)}
    (h : cellsOf (w :: writes) = some cells) :
    lampOf w.lamp ≠ none ∧ cellOf w ≠ none ∧ ∃ rest, cellsOf writes = some rest := by
  rw [cellsOf, List.mapM_cons] at h
  cases hlamp : lampOf w.lamp with
  | none => simp [hlamp] at h
  | some l =>
    cases hcell : cellOf w with
    | none => simp [hlamp, hcell] at h
    | some cell =>
      obtain ⟨rest, hrest, -⟩ : ∃ rest, cellsOf writes = some rest ∧ (l, cell) :: rest = cells := by
        simpa [hlamp, hcell, cellsOf, Option.bind_eq_some_iff] using h
      exact ⟨nofun, nofun, rest, hrest⟩

/-- Cells are given when every lamp and every content is in range (R144). -/
theorem inRange_of_cellsOf {writes : List CellWrite} {cells : List (LampNo × Option Light)}
    (h : cellsOf writes = some cells) : ∀ w ∈ writes, lampOf w.lamp ≠ none ∧ cellOf w ≠ none := by
  induction writes generalizing cells with
  | nil => nofun
  | cons v writes ih =>
    obtain ⟨hlamp, hcell, rest, hrest⟩ := inRange_of_cellsOf_cons h
    exact List.forall_mem_cons.mpr ⟨⟨hlamp, hcell⟩, ih hrest⟩

theorem any_lampOf_isNone_iff (writes : List CellWrite) :
    (writes.any fun w => (lampOf w.lamp).isNone) = true ↔ ∃ w ∈ writes, 40 ≤ w.lamp.toNat := by
  simp [lampOf_eq_none_iff]

theorem answerWriteLamps_notFound (p : Port) {writes : List CellWrite} (s : State) (hok : cellWritesOk writes = true)
    (h : ∃ w ∈ writes, 40 ≤ w.lamp.toNat) : answerWriteLamps p writes s = .refuse .notFound s := by
  simp only [answerWriteLamps, hok, (any_lampOf_isNone_iff writes).mpr h, Bool.not_true, Bool.false_eq_true,
    if_false, if_true]

theorem answerWriteLamps_of_lamps (p : Port) {writes : List CellWrite} (s : State) (hok : cellWritesOk writes = true)
    (h : ∀ w ∈ writes, w.lamp.toNat < 40) :
    answerWriteLamps p writes s =
      ((cellsOf writes).map fun cells => (⟨.ok, [], s.writeCells p cells⟩ : Answer)).getD (.refuse .badOrder s) := by
  have hany : ¬(writes.any fun w => (lampOf w.lamp).isNone) = true := by
    rw [any_lampOf_isNone_iff]
    rintro ⟨w, hw, hout⟩
    exact absurd (h w hw) (Nat.not_lt.mpr hout)
  simp only [answerWriteLamps, hok, if_neg hany, Bool.not_true, Bool.false_eq_true, if_false]
  cases cellsOf writes <;> rfl

theorem exec_writeLamps_of_cells {s : State} {p : Port} {writes : List CellWrite}
    {cells : List (LampNo × Option Light)} (hs : s.ready p) (hok : cellWritesOk writes = true)
    (h : cellsOf writes = some cells) :
    exec (.writeLamps p writes) s = .next ((s.writeCells p cells).answered p .ok []) := by
  have hlamps : ∀ w ∈ writes, w.lamp.toNat < 40 := fun w hw =>
    Nat.not_le.mp (mt (lampOf_eq_none_iff w.lamp).mpr (inRange_of_cellsOf h w hw).1)
  have hexec := exec_row_of_ready hs (.writeLamps writes)
  simp only [Command.answer, answerWriteLamps_of_lamps p s hok hlamps, h] at hexec
  exact hexec

/-! ## The cells written -/

@[simp] theorem writeCell_writeCell (p : Port) (a b : Option Light) (lamp : Lamp) :
    (lamp.writeCell p a).writeCell p b = lamp.writeCell p b := by
  cases p <;> rfl

theorem applyCells_eq_foldl (p : Port) (cells : List (LampNo × Option Light)) (s : State) :
    applyCells p cells s = cells.foldl (fun u w => u.modLamp w.1 (Lamp.writeCell p w.2)) s := by
  induction cells generalizing s with
  | nil => rfl
  | cons w cells ih => exact ih _

theorem applyCells_eq (p : Port) (cells : List (LampNo × Option Light)) (s : State) :
    applyCells p cells s = { s with lampUnit := (applyCells p cells s).lampUnit } := by
  induction cells generalizing s with
  | nil => rfl
  | cons w cells ih => exact ih _

/-- The last cell carried for a lamp. -/
def lastCell (cells : List (LampNo × Option Light)) (l : LampNo) : Option (LampNo × Option Light) :=
  (cells.filter fun w => w.1 == l).getLast?

theorem lastCell_cons (w : LampNo × Option Light) (cells : List (LampNo × Option Light)) (l : LampNo) :
    lastCell (w :: cells) l = if w.1 = l then some ((lastCell cells l).getD w) else lastCell cells l := by
  by_cases h : w.1 = l
  · simp [lastCell, h, List.getLast?_cons]
  · simp [lastCell, h]

theorem lastCell_eq_none_iff (cells : List (LampNo × Option Light)) (l : LampNo) :
    lastCell cells l = none ↔ (cells.any fun w => w.1 == l) = false := by
  simp [lastCell]

/-- A lamp named has the last cell carried for it, and any other is left as it was (R144). -/
theorem lamp_applyCells (p : Port) (cells : List (LampNo × Option Light)) (s : State) (l : LampNo) :
    (applyCells p cells s).lamp l = (lastCell cells l).elim (s.lamp l) fun w => (s.lamp l).writeCell p w.2 := by
  induction cells generalizing s with
  | nil => rfl
  | cons w cells ih =>
    rw [applyCells, ih, lastCell_cons, State.lamp_modLamp]
    by_cases h : w.1 = l
    · rw [if_pos h, if_pos h, h]
      cases lastCell cells l <;> simp
    · rw [if_neg h, if_neg h]

theorem writeCell_cells (p : Port) (cell : Option Light) (lamp : Lamp) :
    (lamp.writeCell p cell).showCell = (if p = .p1 then cell else lamp.showCell)
      ∧ (lamp.writeCell p cell).rulesCell = (if p = .p0 then cell else lamp.rulesCell)
      ∧ (lamp.writeCell p cell).testCell = (if p = .p2 then cell else lamp.testCell) := by
  cases p <;> exact ⟨rfl, rfl, rfl⟩

theorem writeCells_eq (s : State) (p : Port) (cells : List (LampNo × Option Light)) :
    s.writeCells p cells = { s with lampUnit := (s.writeCells p cells).lampUnit } := by
  rw [State.writeCells, redriveAll_eq, applyCells_eq]

/-- A lamp that is not named keeps its cells and its output state. -/
theorem lamp_writeCells_of_unnamed {cells : List (LampNo × Option Light)} {l : LampNo} (h : lastCell cells l = none)
    (s : State) (p : Port) : (s.writeCells p cells).lamp l = s.lamp l := by
  rw [State.writeCells, lamp_redriveAll_of_not ((lastCell_eq_none_iff cells l).mp h), lamp_applyCells, h]
  rfl

/-- A lamp that is named has its last cell in the port's layer, and the level its cells then give (R144, R146). -/
theorem lamp_writeCells_of_named {cells : List (LampNo × Option Light)} {l : LampNo} {w : LampNo × Option Light}
    (h : lastCell cells l = some w) (s : State) (p : Port) :
    ((s.writeCells p cells).lamp l).SameCells ((s.lamp l).writeCell p w.2)
      ∧ ((s.writeCells p cells).lamp l).drive =
        ((s.writeCells p cells).lamp l).driveLevel s.control.mode s.time := by
  have hnamed : (cells.any fun w => w.1 == l) = true := by
    rw [← Bool.not_eq_false, ← lastCell_eq_none_iff, h]
    nofun
  have hcells := sameCells_redriveAll (applyCells p cells s) (fun l => cells.any fun w => w.1 == l) l
  refine ⟨hcells.trans ?_, ?_⟩
  · rw [lamp_applyCells, h]
    exact .refl _
  · rw [State.writeCells, drive_redriveAll hnamed, hcells.driveLevel, State.levelOf, applyCells_eq]
    rfl

/-- Settles O51: the tests are `answerWriteLamps_notFound` and `answerWriteLamps_of_lamps`; an accepted write leaves
the lamps as `lamp_writeCells_of_unnamed` and `lamp_writeCells_of_named` say. -/
theorem writeLampsWritesTheLayer : Obligations.WriteLampsWritesTheLayer := by
  intro s p writes hs hok
  have hexec := exec_row_of_ready hs (.writeLamps writes)
  simp only [Command.answer] at hexec
  refine ⟨fun hout => ?_, fun hlamps hcell => ?_, fun cells hcells => ?_⟩
  · rw [answerWriteLamps_notFound p s hok hout] at hexec
    exact hexec
  · have hnone : cellsOf writes = none := by
      obtain ⟨w, hw, hcell⟩ := hcell
      by_contra hsome
      obtain ⟨cells, hcells⟩ := Option.ne_none_iff_exists'.mp hsome
      exact (inRange_of_cellsOf hcells w hw).2 hcell
    rw [answerWriteLamps_of_lamps p s hok hlamps, hnone] at hexec
    exact hexec
  · refine ⟨_, exec_writeLamps_of_cells hs hok hcells, writeCells_eq s p cells, fun l => ?_⟩
    split
    · rename_i hlast
      exact lamp_writeCells_of_unnamed hlast s p
    · rename_i k cell hlast
      obtain ⟨hcells, hdrive⟩ := lamp_writeCells_of_named hlast s p
      obtain ⟨hshow, hrules, htest⟩ := writeCell_cells p cell (s.lamp l)
      exact ⟨hcells.showLayer.trans hshow, hcells.rules.trans hrules, hcells.test.trans htest, hdrive⟩

/-! ## The decisions -/

theorem foldl_redrive (ls : List LampNo) (s : State) :
    ls.foldl State.redrive s = ls.foldl (fun u l => u.putLamp l (u.drivenLamp l) (u.drivenStaging l)) s := by
  rw [show State.redrive = fun u l => u.putLamp l (u.drivenLamp l) (u.drivenStaging l) from
    funext fun u => funext fun l => redrive_eq u l]

/-- Settles O52: the decisions of `redrive_eq`, for the lamps an accepted write names (`applyCells_eq_foldl`) and for
those that blink at the rate. -/
theorem lampsStartAndStage : Obligations.LampsStartAndStage := by
  refine ⟨fun s p writes cells hs hok hcells => ?_, fun s r hpowered => ?_, fun s l => ?_⟩
  · rw [exec_writeLamps_of_cells hs hok hcells, State.writeCells, State.redriveAll, foldl_redrive,
      applyCells_eq_foldl]
    cases p <;> rfl
  · have hexec : exec (.lampPhaseEvent r) s = .next (s.takeLampPhase r).decideLines :=
      event_of_powered hpowered (State.takeLampPhase · r)
    rw [hexec, State.takeLampPhase, State.redriveAll, foldl_redrive]
    rfl
  · simp only [lampOutput, List.contains_iff_mem]

end Sys2Proof.Machine

/-!
WRITE LAMP CONFIG and READ LAMPS.
-/

namespace Sys2Proof.Machine

/-! ## The inrush flags -/

theorem getElem_tabulate {α : Type} {n : Nat} (f : Fin n → α) (i : Fin n) : (tabulate n f)[i] = f i := by
  simp [tabulate]

theorem toList_eq_map_allFin {α : Type} {n : Nat} (v : Vector α n) : v.toList = (allFin n).map fun i => v[i] := by
  apply List.ext_getElem
  · simp [allFin]
  · intro i _ _
    simp only [allFin, List.getElem_map, List.getElem_ofFn]
    rfl

/-- The slots in use, counted by lamp number. -/
theorem slotsInUse_eq_count_lamps (s : State) :
    s.lampUnit.slotsInUse = (allFin 40).countP fun l => (s.lamp l).slotAt.isSome := by
  rw [slotsInUse_eq_countP, toList_eq_map_allFin, List.countP_map]
  rfl

/-- A lamp after the flags are written (R153). -/
theorem lamp_writeInrushFlags (s : State) (flags : BitVec 40) (l : LampNo) :
    (s.writeInrushFlags flags).lamp l =
      { s.lamp l with
        inrush := flags.getLsbD l.val
        warm := (s.lamp l).warm || (!flags.getLsbD l.val && s.lampUnit.staging.contains l) } :=
  getElem_tabulate _ l

/-- The flags neither take nor free a slot. -/
theorem slotsInUse_writeInrushFlags (s : State) (flags : BitVec 40) :
    (s.writeInrushFlags flags).lampUnit.slotsInUse = s.lampUnit.slotsInUse := by
  simp only [slotsInUse_eq_count_lamps, lamp_writeInrushFlags]

/-- The state with the flags, the inrush time and the slot limit written, and no slot granted yet (R153). -/
def State.lampsConfigured (s : State) (flags : BitVec 40) (time limit : Nat) : State :=
  let s1 := s.writeInrushFlags flags
  { s1 with lampUnit := { s1.lampUnit with inrushTime := time, slotLimit := limit } }

/-- With none staged or no slot free under the new limit, the configuration grants none (R153). -/
theorem serveStaging_lampsConfigured {s : State} {limit : Nat}
    (h : s.lampUnit.staging = [] ∨ limit ≤ s.lampUnit.slotsInUse) (flags : BitVec 40) (time : Nat) :
    (s.lampsConfigured flags time limit).serveStaging = s.lampsConfigured flags time limit := by
  rcases h with hnone | hfull
  · have hstaging : (s.lampsConfigured flags time limit).lampUnit.staging =
        s.lampUnit.staging.filter fun l => flags.getLsbD l.val := rfl
    exact serveStaging_of_nil (by rw [hstaging, hnone, List.filter_nil])
  · have hslots : (s.lampsConfigured flags time limit).lampUnit.slotsInUse = s.lampUnit.slotsInUse :=
      slotsInUse_writeInrushFlags s flags
    exact serveStaging_of_full (hslots ▸ hfull)

/-! ## The lamps listed -/

theorem lampOf_byte (l : LampNo) : lampOf (byte l.val) = some l := by
  have h : (byte l.val).toNat = l.val := by simp [byte]; omega
  simp [lampOf, h]

theorem pairwise_lt_allFin (n : Nat) : (allFin n).Pairwise (· < ·) := by
  simp [allFin, List.pairwise_ofFn]

/-- The numbers from a on, k of them at most, by their range. -/
theorem take_drop_allFin (n a k : Nat) :
    ((allFin n).drop a).take k = (allFin n).filter fun m => decide (a ≤ m.val ∧ m.val < a + k) := by
  have hsub : (((allFin n).drop a).take k).Sublist (allFin n) :=
    (List.take_sublist ..).trans (List.drop_sublist ..)
  refine ((pairwise_lt_allFin n).sublist hsub).eq_of_mem_iff ((pairwise_lt_allFin n).filter _) fun m => ?_
  rw [mem_allFin_filter, decide_eq_true_iff, List.mem_take_iff_getElem]
  simp only [allFin, List.getElem_drop, List.getElem_ofFn, List.length_drop, List.length_ofFn, id_eq]
  refine ⟨fun ⟨j, hj, hm⟩ => ?_, fun ⟨hle, hlt⟩ => ⟨m.val - a, by omega, Fin.ext ?_⟩⟩
  · subst hm
    dsimp only
    omega
  · dsimp only
    omega

/-- Settles O53: WRITE LAMP CONFIG is `serveStaging_lampsConfigured`, lamp by lamp `lamp_writeInrushFlags`; the lamps
that READ LAMPS lists are those of `take_drop_allFin`. -/
theorem lampConfigAndRead : Obligations.LampConfigAndRead := by
  intro s p flags time limit first hs
  have hwrite := exec_row_of_ready hs (.writeLampConfig flags time limit)
  have hread := exec_row_of_ready hs (.readLamps first)
  simp only [Command.answer, answerWriteLampConfig, answerReadLamps] at hwrite hread
  refine ⟨fun hp => ?_, ?_, fun hout => ?_, ?_⟩
  · rw [if_pos hp] at hwrite
    exact hwrite
  · intro hp hnone time' limit'
    rw [if_neg hp] at hwrite
    have hserve := serveStaging_lampsConfigured hnone flags time'
    refine ⟨s.lampsConfigured flags time' limit', ?_, rfl, rfl, rfl, rfl, lamp_writeInrushFlags s flags⟩
    rw [← hserve]
    exact hwrite
  · rw [(lampOf_eq_none_iff first).mpr hout] at hread
    exact hread
  · rintro l rfl listed
    rw [lampOf_byte] at hread
    have hlisted : ((allFin 40).drop l.val).take 10 = listed := take_drop_allFin 40 l.val 10
    have hcount : min 10 (40 - l.val) = listed.length := by simp [← hlisted, allFin]
    have hstaged : min 8 s.lampUnit.staging.length = (s.lampUnit.staging.take 8).length := List.length_take.symm
    rw [hcount, hstaged, ← hlisted]
    exact hread

end Sys2Proof.Machine

/-!
The ATTN lines after every command (R158).
-/

namespace Sys2Proof.Machine

/-! ## The line of one port -/

theorem lineAsserted_iff (mode : Mode) (ps : PortState) :
    lineAsserted mode ps = true ↔
      ∃ n ∈ allSources, sourcePending mode ps n = true ∧ ps.attention.threshold < ps.priority n := by
  simp only [lineAsserted, List.any_eq_true, Bool.and_eq_true, decide_eq_true_iff]

/-- Whether the line is to be asserted does not depend on the line. -/
@[simp] theorem lineAsserted_decideLine (mode mode' : Mode) (ps : PortState) :
    lineAsserted mode (ps.decideLine mode') = lineAsserted mode ps := rfl

theorem PortState.priority_le {ps : PortState} (h : ps.inRange) (n : Nat) : ps.priority n ≤ 7 := by
  obtain ⟨_, _, _, _, _, hpriorities, _⟩ := h
  rw [PortState.priority, List.getD_eq_getElem?_getD]
  cases hread : ps.attention.priorities.toList[n - 1]? with
  | none => exact Nat.zero_le 7
  | some k => exact hpriorities k (List.mem_of_getElem? hread)

/-! ## How a command leaves the lines -/

theorem linesRight_decideLines (s : State) : s.decideLines.linesRight := fun p => by
  rw [port_decideLines, State.decideLines_control, lineAsserted_decideLine]
  rfl

/-- Only the ports and the table mode count. -/
theorem State.linesRight.congr {s t : State} (h : s.linesRight) (hports : t.ports = s.ports)
    (hcontrol : t.control = s.control) : t.linesRight := fun p => by
  rw [State.port, hports, hcontrol]
  exact h p

/-- The ways in which a command leaves the ports and the mode controller: with every line decided at the end of
its event (R158), as they were, where at most the pins move (R173, R174), or at their power-on values (R173). -/
inductive LeavesLines (s t : State) : Prop
  | decided (u : State) (h : t = u.decideLines)
  | kept (hports : t.ports = s.ports) (hcontrol : t.control = s.control)
  | powerOn (hports : t.ports = State.reset.ports) (hcontrol : t.control = State.reset.control)

theorem LeavesLines.event {act : State → State} {s t : State} (hexec : Machine.event act s = .next t) :
    LeavesLines s t := by
  unfold Machine.event at hexec
  split at hexec <;> cases hexec
  · exact .decided _ rfl
  · exact .kept rfl rfl

/-- The row of a monitored input: a level already there is no change, and without supply the pins alone move
(R31, R110, R136, R173). -/
theorem LeavesLines.pinRow {same : Prop} [Decidable same] {s moved t : State} {pins : Pins}
    (hexec : (if same then Host.Outcome.next s
      else if s.powered then .next moved.decideLines
      else .next { s with pins := pins } : Host.Outcome State Fault Refusal) = .next t) :
    LeavesLines s t := by
  split at hexec
  · cases hexec
    exact .kept rfl rfl
  · split at hexec <;> cases hexec
    · exact .decided _ rfl
    · exact .kept rfl rfl

theorem leavesLines_exec {i : Instr} {s t : State} (hexec : exec i s = .next t) : LeavesLines s t := by
  cases rowKind_all i with
  | command c p =>
    rw [exec_row] at hexec
    exact .event hexec
  | due _ e _ he =>
    rw [he] at hexec
    exact .event hexec
  | advance => exact .event hexec
  | receiveByte p b => exact .event (act := (State.takeByte · p b)) hexec
  | replyEnd p => exact .event (act := (State.takeReplyEnd · p)) hexec
  | powerOn | supplyFall =>
    cases hexec
    exact .powerOn rfl rfl
  | resetnFall =>
    simp only [exec, execResetnFall] at hexec
    split at hexec
    · split at hexec <;> cases hexec
      · exact .decided _ rfl
      · exact .kept rfl rfl
    · cases hexec
      exact .kept rfl rfl
  | resetnRise =>
    cases hexec
    exact .kept rfl rfl
  | switchRawChange | senseChange | railokChange => exact .pinRow hexec

/-- Every command leaves the lines right (R158). -/
theorem State.linesRight.exec {i : Instr} {s t : State} (h : s.linesRight) (hexec : Machine.exec i s = .next t) :
    t.linesRight := by
  cases leavesLines_exec hexec with
  | decided u ht => exact ht ▸ linesRight_decideLines u
  | kept hports hcontrol => exact h.congr hports hcontrol
  | powerOn hports hcontrol => exact reset_linesRight.congr hports hcontrol

/-- Settles O59: every command leaves the lines right (`State.linesRight.exec`); no priority is above 7
(`PortState.priority_le`), and neither a source nor its priority is read from the threshold. -/
theorem attentionLinesAreRight : Obligations.AttentionLinesAreRight := by
  refine ⟨fun _ _ _ h hexec => h.exec hexec, lineAsserted_iff, fun mode ps hrange hthreshold => ?_,
    fun _ _ _ => rfl⟩
  rw [← Bool.not_eq_true, lineAsserted_iff]
  rintro ⟨n, _, _, habove⟩
  have := ps.priority_le hrange n
  omega

end Sys2Proof.Machine

/-!
WRITE ATTENTION and TAKE EVENT.
-/

namespace Sys2Proof.Machine

/-! ## The source chosen -/

/-- A source that TAKE EVENT prefers to another, or that source itself: of a higher priority, or at a tie of no
higher number (R159). -/
def PortState.Outranks (ps : PortState) (n m : Nat) : Prop :=
  ps.priority m < ps.priority n ∨ (ps.priority m = ps.priority n ∧ n ≤ m)

theorem PortState.Outranks.refl (ps : PortState) (n : Nat) : ps.Outranks n n := .inr ⟨rfl, Nat.le_refl n⟩

theorem PortState.Outranks.trans {ps : PortState} {a b c : Nat} (hab : ps.Outranks a b) (hbc : ps.Outranks b c) :
    ps.Outranks a c := by
  unfold PortState.Outranks at *
  omega

/-- The better of a source and one of a higher number outranks both. -/
theorem betterSource_outranks (ps : PortState) {b n : Nat} (h : b < n) :
    ∃ w ∈ [b, n], betterSource ps (some b) n = some w ∧ ps.Outranks w b ∧ ps.Outranks w n := by
  unfold betterSource PortState.Outranks
  by_cases hhigher : ps.priority b < ps.priority n
  · exact ⟨n, by simp, by simp [hhigher], by omega, by omega⟩
  · exact ⟨b, by simp, by simp [hhigher], by omega, by omega⟩

/-- Over sources in the order of their numbers, the best is one of them and outranks them all. -/
theorem foldl_betterSource (ps : PortState) :
    ∀ (l : List Nat) (b : Nat), (b :: l).Pairwise (· < ·) →
      ∃ w ∈ b :: l, l.foldl (betterSource ps) (some b) = some w ∧ ∀ m ∈ b :: l, ps.Outranks w m := by
  intro l
  induction l with
  | nil => exact fun b _ => ⟨b, by simp, rfl, by simp [PortState.Outranks.refl]⟩
  | cons n l ih =>
    intro b hsorted
    obtain ⟨hfirst, hrest⟩ := List.pairwise_cons.mp hsorted
    obtain ⟨hsecond, htail⟩ := List.pairwise_cons.mp hrest
    obtain ⟨v, hv, hbetter, hb, hn⟩ := betterSource_outranks ps (hfirst n List.mem_cons_self)
    have hbelow : ∀ m ∈ l, v < m := fun m hm => by
      rcases List.mem_pair.mp hv with rfl | rfl
      · exact hfirst m (List.mem_cons_of_mem _ hm)
      · exact hsecond m hm
    obtain ⟨w, hw, hbest, hall⟩ := ih v (List.pairwise_cons.mpr ⟨hbelow, htail⟩)
    have hwv : ps.Outranks w v := hall v List.mem_cons_self
    refine ⟨w, ?_, by rw [List.foldl_cons, hbetter, hbest], fun m hm => ?_⟩
    · rcases List.mem_cons.mp hw with rfl | hw
      · exact List.mem_append_left l hv
      · exact List.mem_cons_of_mem _ (List.mem_cons_of_mem _ hw)
    · rcases List.mem_cons.mp hm with rfl | hm
      · exact hwv.trans hb
      · rcases List.mem_cons.mp hm with rfl | hm
        · exact hwv.trans hn
        · exact hall m (List.mem_cons_of_mem _ hm)

/-- A source that TAKE EVENT can choose: pending and of a priority above 0 (R159). -/
def PortState.Eligible (mode : Mode) (ps : PortState) (n : Nat) : Prop :=
  sourcePending mode ps n = true ∧ 0 < ps.priority n

/-- The sources that TAKE EVENT chooses from, in the order of their numbers. -/
def eligibleSources (mode : Mode) (ps : PortState) : List Nat :=
  allSources.filter fun n => sourcePending mode ps n && 0 < ps.priority n

theorem mem_eligibleSources {mode : Mode} {ps : PortState} {n : Nat} :
    n ∈ eligibleSources mode ps ↔ n ∈ allSources ∧ ps.Eligible mode n := by
  simp [eligibleSources, PortState.Eligible]

theorem pairwise_eligibleSources (mode : Mode) (ps : PortState) :
    (eligibleSources mode ps).Pairwise (· < ·) :=
  List.Pairwise.filter _ (by decide)

theorem chosenSource_eq_foldl (mode : Mode) (ps : PortState) :
    chosenSource mode ps = (eligibleSources mode ps).foldl (betterSource ps) none := rfl

/-- TAKE EVENT's choice: none with no eligible source, else the one that outranks them all (R159). -/
theorem chosenSource_cases (mode : Mode) (ps : PortState) :
    (chosenSource mode ps = none ∧ ∀ n ∈ allSources, ¬ps.Eligible mode n)
    ∨ ∃ n ∈ allSources, chosenSource mode ps = some n ∧ ps.Eligible mode n
      ∧ ∀ m ∈ allSources, ps.Eligible mode m → ps.Outranks n m := by
  have hmem := @mem_eligibleSources mode ps
  have hsorted := pairwise_eligibleSources mode ps
  rw [chosenSource_eq_foldl]
  cases hlist : eligibleSources mode ps with
  | nil =>
    rw [hlist] at hmem
    exact .inl ⟨rfl, fun n hn he => List.not_mem_nil (hmem.mpr ⟨hn, he⟩)⟩
  | cons b l =>
    rw [hlist] at hmem hsorted
    obtain ⟨w, hw, hbest, hall⟩ := foldl_betterSource ps l b hsorted
    obtain ⟨hsource, he⟩ := hmem.mp hw
    exact .inr ⟨w, hsource, hbest, he, fun m hm hm' => hall m (hmem.mpr ⟨hm, hm'⟩)⟩

/-- An edge flag is cleared exactly when its source is the one chosen (R157, R159). -/
theorem clearEdge_eq (source : Option Nat) (ps : PortState) :
    ps.clearEdge source =
      { ps with
        attention :=
          { ps.attention with
            faultEdge := ps.attention.faultEdge && source != some 2
            modeEdge := ps.attention.modeEdge && source != some 3 } } := by
  unfold PortState.clearEdge
  split
  · simp
  · simp
  · rename_i hfault hmode
    have hfault' : (source != some 2) = true := bne_iff_ne.mpr hfault
    have hmode' : (source != some 3) = true := bne_iff_ne.mpr hmode
    rw [hfault', hmode', Bool.and_true, Bool.and_true]

/-! ## The bits of the reply -/

/-- Flags in bits below a number add to less than its power of two. -/
theorem sum_flagBit_lt (f : Nat → Bool) :
    ∀ (l : List Nat) (k : Nat), l.Pairwise (· > ·) → (∀ m ∈ l, m < k) →
      (l.map fun n => flagBit (f n) n).sum < 2 ^ k := by
  intro l
  induction l with
  | nil => exact fun k _ _ => Nat.two_pow_pos k
  | cons n l ih =>
    intro k hsorted hbelow
    obtain ⟨hfirst, hrest⟩ := List.pairwise_cons.mp hsorted
    have hlow := ih n hrest hfirst
    have hpow : 2 ^ (n + 1) ≤ 2 ^ k := Nat.pow_le_pow_right (by decide) (hbelow n List.mem_cons_self)
    have hflag : flagBit (f n) n ≤ 2 ^ n := by unfold flagBit; split <;> omega
    rw [List.map_cons, List.sum_cons]
    omega

/-- Flags in distinct bits, the highest first, are read back from their sum. -/
theorem testBit_sum_flagBit (f : Nat → Bool) :
    ∀ l : List Nat, l.Pairwise (· > ·) → ∀ n ∈ l, (l.map fun n => flagBit (f n) n).sum.testBit n = f n := by
  intro l
  induction l with
  | nil => exact fun _ _ hn => absurd hn List.not_mem_nil
  | cons k l ih =>
    intro hsorted n hn
    obtain ⟨hfirst, hrest⟩ := List.pairwise_cons.mp hsorted
    have hlow := sum_flagBit_lt f l k hrest hfirst
    rw [List.map_cons, List.sum_cons, flagBit]
    rcases List.mem_cons.mp hn with rfl | hn
    · have hclear := Nat.testBit_lt_two_pow hlow
      cases hflag : f n <;> simp [hclear, Nat.testBit_two_pow_add_eq]
    · have hread := ih hrest n hn
      split
      · rw [Nat.testBit_two_pow_add_gt (hfirst n hn), hread]
      · rw [Nat.zero_add, hread]

/-- The pending state of source n is in bit n (11, section 11.4). -/
theorem getLsbD_pendingBits (mode : Mode) (ps : PortState) {n : Nat} (h : n ∈ allSources) :
    (byte (pendingBits mode ps)).getLsbD n = sourcePending mode ps n := by
  have hsum : pendingBits mode ps =
      (allSources.reverse.map fun n => flagBit (sourcePending mode ps n) n).sum := by
    rw [List.map_reverse, List.sum_reverse, pendingBits]
  have hbit : n < 8 := (by decide : ∀ n ∈ allSources, n < 8) n h
  rw [byte, BitVec.getLsbD_ofNat, hsum,
    testBit_sum_flagBit _ allSources.reverse (by decide) n (List.mem_reverse.mpr h)]
  simp [hbit]

/-! ## The commands -/

/-- Settles O54: WRITE ATTENTION's answer is read off; TAKE EVENT's choice is `chosenSource_cases`, the flag it
clears `clearEdge_eq` and its pending bits `getLsbD_pendingBits`. -/
theorem attentionCommands : Obligations.AttentionCommands := by
  refine ⟨fun s p v threshold mark hs => ?_, fun s p hs => ?_⟩
  · exact ⟨mapTable v fun b => min 7 b.toNat, rfl, exec_row_of_ready hs (.writeAttention v threshold mark)⟩
  · intro ps mode eligible
    refine ⟨fun n hn => ?_, fun hnone => ?_, ?_⟩
    · rcases chosenSource_cases mode ps with ⟨hnone, _⟩ | ⟨w, hsource, hw, he, hall⟩
      · cases hnone.symm.trans hn
      · obtain rfl : w = n := Option.some.inj (hw.symm.trans hn)
        exact ⟨hsource, he, hall⟩
    · rcases chosenSource_cases mode ps with ⟨_, hclosed⟩ | ⟨w, _, hw, _⟩
      · exact hclosed
      · cases hnone.symm.trans hw
    · intro after
      have hafter : ps.clearEdge (chosenSource mode ps) = after := clearEdge_eq _ _
      have hwrite : s.modPort p (PortState.clearEdge (chosenSource mode ps)) = s.modPort p fun _ => after :=
        State.modPort_congr hafter
      refine ⟨byte (pendingBits mode after), ?_, fun n hn => getLsbD_pendingBits mode after hn⟩
      have htake := exec_row_of_ready hs .takeEvent
      simp only [Command.answer, answerTakeEvent, State.port_modPort_self] at htake
      rw [hwrite, hafter] at htake
      exact htake

end Sys2Proof.Machine

/-!
The table reset: the fall of RESETN.
-/

namespace Sys2Proof.Machine

/-- With every priority 0, as at a table reset, no source asserts the line (R158, R162). -/
theorem decideLine_tableReset (mode : Mode) (ps : PortState) : ps.tableReset.decideLine mode = ps.tableReset := by
  have hpriority : ∀ n, ps.tableReset.priority n = 0 := fun n => by
    show (List.replicate 7 0).getD (n - 1) 0 = 0
    simp only [List.getD_eq_getElem?_getD, List.getElem?_replicate]
    split <;> rfl
  have hline : lineAsserted mode ps.tableReset = false := by
    rw [← Bool.not_eq_true, lineAsserted_iff]
    rintro ⟨n, -, -, habove⟩
    rw [hpriority n] at habove
    exact Nat.not_lt_zero _ habove
  show { ps.tableReset with attention := { ps.tableReset.attention with line := lineAsserted mode ps.tableReset } } = _
  rw [hline]
  rfl

/-- So the end of the event of a table reset leaves every line as the reset does. -/
theorem decideLines_tableReset (s : State) : s.tableReset.decideLines = s.tableReset := by
  simp only [State.decideLines, State.tableReset, decideLine_tableReset]

theorem switchAt_tableReset (s : State) (n : SwitchNo) :
    s.tableReset.switchAt n = Switch.default s.pins.switch[n] :=
  getElem_mapTable s.pins.switch Switch.default n

theorem reflexAt_tableReset (s : State) (x : ReflexNo) : s.tableReset.reflexAt x = Reflex.default :=
  Vector.getElem_replicate x.isLt

theorem lamp_tableReset (s : State) (l : LampNo) : s.tableReset.lamp l = (s.lamp l).tableReset s.now :=
  getElem_mapTable s.lampUnit.lamps (Lamp.tableReset s.now) l

/-- A lamp with no cell is unlit, so that its cool-down runs exactly while it is WARM (R149, R155). -/
theorem Lamp.tableReset_eq (now : Nat) (lamp : Lamp) :
    lamp.tableReset now =
      { Lamp.default with
        warm := lamp.warm
        coolAt := if lamp.warm then lamp.coolAt.or (some (now + 5000)) else none } := by
  cases hwarm : lamp.warm <;> simp [Lamp.tableReset, Lamp.decideCoolDown, Lamp.unlit, Lamp.composite, Lamp.default,
    Config.coolDownTicks, hwarm]

/-- The fall of RESETN on a powered part (R172). -/
theorem exec_resetnFall {s : State} (hpowered : s.powered = true) (hhigh : s.pins.resetn = true) :
    exec .resetnFall s = .next (s.setResetn false).tableReset := by
  have hrow : exec .resetnFall s = .next (s.setResetn false).tableReset.decideLines := by
    show execResetnFall s = _
    rw [execResetnFall, if_pos hhigh, if_pos hpowered]
  rw [hrow, decideLines_tableReset]

/-- Settles O6: a fall is `State.tableReset` at the low level, block by block; a rise is the level. -/
theorem resetnResetsTheTable : Obligations.ResetnResetsTheTable := by
  refine ⟨fun s hpowered hhigh => ?_, fun s => ⟨rfl, fun hlow => ?_⟩⟩
  · refine ⟨_, exec_resetnFall hpowered hhigh, hpowered, rfl, rfl, rfl, ?_, ?_, rfl, ?_, ?_, rfl, rfl, rfl, rfl,
      fun l => ?_⟩
    · exact port_tableReset _
    · exact chan_tableReset _
    · exact switchAt_tableReset _
    · exact reflexAt_tableReset _
    · rw [lamp_tableReset, Lamp.tableReset_eq]
      rfl
  · show execResetnFall s = _
    rw [execResetnFall, if_neg (by simp [hlow])]

end Sys2Proof.Machine

/-!
The CRC (R168).
-/

namespace Sys2Proof.Machine

theorem crc8_append (bytes : List Byte) (b : Byte) : crc8 (bytes ++ [b]) = crcByte (crc8 bytes) b :=
  List.foldl_append ..

/-- A byte that the register already holds clears it. -/
theorem crcByte_self (r : Byte) : crcByte r r = 0 := by
  rw [crcByte, BitVec.xor_self]
  decide

theorem crc8_closeFrame (bytes : List Byte) : crc8 (closeFrame bytes) = 0 := by
  rw [closeFrame, crc8_append, crcByte_self]

/-- What the checks find in a closed frame (R166). -/
theorem checkFrame_closeFrame (len code : Byte) (body : List Byte) :
    checkFrame (.bytes (closeFrame (len :: code :: body))) = commandOf code body := by
  simp only [checkFrame, closeFrame, List.dropLast_concat, List.getLast?_concat, if_pos]

theorem checkFrame_of_wrongCrc {bytes : List Byte} {b : Byte} (h : b ≠ crc8 bytes) :
    checkFrame (.bytes (bytes ++ [b])) = .error .badFrame := by
  simp only [checkFrame, List.dropLast_concat, List.getLast?_concat]
  exact if_neg fun heq => h (Option.some.inj heq).symm

/-- Settles O13: a frame that is taken, and every reply, is closed by the CRC of what comes before
(`crc8_closeFrame`). -/
theorem crcOfFrames : Obligations.CrcOfFrames := by
  refine ⟨rfl, fun r => ?_, fun bytes b => ?_, crc8_closeFrame, fun bytes c hcheck => ?_, fun _ _ _ _ => crc8_closeFrame _⟩
  · rw [crcShift, BitVec.msb_eq_getLsbD_last]
    rfl
  · exact crc8_append bytes b
  · rcases bytes.eq_nil_or_concat' with rfl | ⟨front, b, rfl⟩
    · cases hcheck
    · by_cases hcrc : b = crc8 front
      · rw [hcrc]
        exact crc8_closeFrame front
      · cases (checkFrame_of_wrongCrc hcrc).symm.trans hcheck

end Sys2Proof.Machine

/-!
The frames that carry commands (R163, R166, R169).
-/

namespace Sys2Proof.Machine

/-! ## The code -/

/-- An order record that holds nothing: any would do in `Command.samples`. -/
def zeroOrder : OrderRecord := ⟨0, 0, 0, 0, false, false, 0, 0, 0, none⟩

/-- A profile record that holds nothing. -/
def zeroProfile : ProfileRecord := ⟨false, false, false, false, false, 0, 0, 0, 0, 0, 0, 0, 0, 0, 0⟩

/-- A reflex record that holds nothing. -/
def zeroReflex : ReflexRecord := ⟨0, false, 0, 0, false, false, false⟩

/-- A command of each code of section 11.4. -/
def Command.samples : List Command :=
  [.portReset, .tableReset, .readClock, .setAlarmTime 0, .disarm, .postOrder zeroOrder, .cancelOrder 0, .readCompletions,
    .readRing, .writeProfile 0 zeroProfile, .readProfile 0, .readChannel 0, .clearFault 0, .writeRail 0 0, .readRail,
    .setMode 0, .clearAlarm, .readAlarm, .writeSwitchConfig 0 false 0 0, .readSwitches, .subscribe 0, .readSwitchEvents,
    .writeReflex 0 zeroReflex, .readReflex 0, .writeLamps [], .writeLampConfig 0 0 0, .readLamps 0,
    .writeAttention (.replicate 7 0) 0 0, .takeEvent]

/-- A code that is none of theirs is unknown (R166, check 2). -/
theorem commandOf_of_no_sample {code : Byte} (h : code.toNat ∉ Command.samples.map (·.code.toNat)) (body : List Byte) :
    commandOf code body = .error .unknownCommand := by
  have hlist : Command.samples.map (·.code.toNat) =
      [0x0E, 0x0F, 0x11, 0x12, 0x13, 0x21, 0x22, 0x23, 0x24, 0x31, 0x32, 0x33, 0x34, 0x41, 0x42, 0x51, 0x52, 0x53, 0x61,
        0x62, 0x63, 0x64, 0x65, 0x66, 0x71, 0x72, 0x73, 0x81, 0x82] := rfl
  rw [hlist] at h
  unfold commandOf
  split
  case h_30 => rfl
  all_goals
    rename_i hcode
    rw [hcode] at h
    simp at h

theorem commandOf_unknown {code : Byte} (h : ∀ c : Command, c.code ≠ code) (body : List Byte) :
    commandOf code body = .error .unknownCommand := by
  refine commandOf_of_no_sample (fun hmem => ?_) body
  obtain ⟨c, -, hc⟩ := List.mem_map.mp hmem
  exact h c (BitVec.eq_of_toNat_eq hc)

/-! ## The lengths of a body -/

/-- What a reader makes of a body: a command of one code from each body of a length it takes, and BAD LENGTH from the
others (R166, check 3). -/
structure Reads (read : List Byte → Except Status Command) (code : Byte) (lengths : List Nat) : Prop where
  bad : ∀ body, body.length ∉ lengths → read body = .error .badLength
  good : ∀ body, body.length ∈ lengths → ∃ c, read body = .ok c ∧ c.code = code

/-- A reader that takes one length: given by what it makes of a list that long, written out, and of every other. -/
theorem Reads.of_length {read : List Byte → Except Status Command} {code : Byte} {n : Nat}
    (hbad : ∀ body, body.length ≠ n → read body = .error .badLength)
    (hgood : ∀ b : Fin n → Byte, ∃ c, read (List.ofFn b) = .ok c ∧ c.code = code) : Reads read code [n] where
  bad body h := hbad body fun hlength => h (List.mem_singleton.mpr hlength)
  good body h := by
    obtain rfl := List.mem_singleton.mp h
    have hgood := hgood body.get
    rwa [List.ofFn_get] at hgood

theorem plainBody_reads (c : Command) : Reads (plainBody c) c.code [1] := by
  refine .of_length (fun body h => ?_) fun b => ⟨c, rfl, rfl⟩
  unfold plainBody
  split
  · exact absurd rfl h
  · rfl

theorem byteBody_reads {f : Byte → Command} {code : Byte} (hcode : ∀ b, (f b).code = code) :
    Reads (byteBody f) code [1] := by
  refine .of_length (fun body h => ?_) fun b => ⟨f (b 0), rfl, hcode (b 0)⟩
  unfold byteBody
  split
  · exact absurd rfl h
  · rfl

theorem timeBody_reads : Reads timeBody 0x12 [4] := by
  refine .of_length (fun body h => ?_) fun b => ⟨_, rfl, rfl⟩
  unfold timeBody
  split
  · exact absurd rfl h
  · rfl

/-- POST ORDER's record is 8 bytes, or 12 with a due time (R73). -/
theorem orderBody_reads : Reads orderBody 0x21 [8, 12] where
  bad body h := by
    unfold orderBody
    split
    · exact absurd List.mem_cons_self h
    · exact absurd (List.mem_pair.mpr (.inr rfl)) h
    · rfl
  good body h := by
    rw [← body.ofFn_get]
    rcases List.mem_pair.mp h with hlength | hlength
    · rw [List.ofFn_congr hlength]
      exact ⟨_, rfl, rfl⟩
    · rw [List.ofFn_congr hlength]
      exact ⟨_, rfl, rfl⟩

theorem profileBody_reads : Reads profileBody 0x31 [18] := by
  refine .of_length (fun body h => ?_) fun b => ⟨_, rfl, rfl⟩
  unfold profileBody
  split
  · exact absurd rfl h
  · rfl

theorem railBody_reads : Reads railBody 0x41 [2] := by
  refine .of_length (fun body h => ?_) fun b => ⟨_, rfl, rfl⟩
  unfold railBody
  split
  · exact absurd rfl h
  · rfl

theorem switchBody_reads : Reads switchBody 0x61 [4] := by
  refine .of_length (fun body h => ?_) fun b => ⟨_, rfl, rfl⟩
  unfold switchBody
  split
  · exact absurd rfl h
  · rfl

theorem setBody_reads : Reads setBody 0x63 [4] := by
  refine .of_length (fun body h => ?_) fun b => ⟨_, rfl, rfl⟩
  unfold setBody
  split
  · exact absurd rfl h
  · rfl

theorem reflexBody_reads : Reads reflexBody 0x65 [7] := by
  refine .of_length (fun body h => ?_) fun b => ⟨_, rfl, rfl⟩
  unfold reflexBody
  split
  · exact absurd rfl h
  · rfl

theorem lampConfigBody_reads : Reads lampConfigBody 0x72 [8] := by
  refine .of_length (fun body h => ?_) fun b => ⟨_, rfl, rfl⟩
  unfold lampConfigBody
  split
  · exact absurd rfl h
  · rfl

theorem attentionBody_reads : Reads attentionBody 0x81 [9] := by
  refine .of_length (fun body h => ?_) fun b => ⟨_, rfl, rfl⟩
  unfold attentionBody
  split
  · exact absurd rfl h
  · rfl

/-! ## The cell writes -/

/-- A body is a row of cell writes exactly when its length is a multiple of 5. -/
theorem readCells_cases (body : List Byte) :
    (∃ writes, readCells body = some writes ∧ body.length = 5 * writes.length)
      ∨ (readCells body = none ∧ body.length % 5 ≠ 0) := by
  induction body using readCells.induct with
  | case1 => exact .inl ⟨[], rfl, rfl⟩
  | case2 lamp content pattern level rate rest ih =>
    rw [readCells]
    simp only [List.length_cons]
    rcases ih with ⟨writes, hread, hlength⟩ | ⟨hread, hlength⟩
    · exact .inl ⟨_, by rw [hread]; rfl, by simp only [List.length_cons]; omega⟩
    · exact .inr ⟨by rw [hread]; rfl, by omega⟩
  | case3 body hnil hcell =>
    refine .inr ⟨readCells.eq_3 body hnil hcell, fun hlength => ?_⟩
    match body, hnil, hcell, hlength with
    | [], hnil, _, _ => exact hnil rfl
    | _ :: _ :: _ :: _ :: _ :: _, _, hcell, _ => exact hcell _ _ _ _ _ _ rfl

/-- WRITE LAMPS carries 1 to 12 cell writes of 5 bytes (R169). -/
theorem lampsBody_reads : Reads lampsBody 0x71 ((List.range 12).map fun n => 5 * (n + 1)) where
  bad body h := by
    rcases readCells_cases body with ⟨writes, hread, hlength⟩ | ⟨hread, -⟩
    · simp only [lampsBody, hread]
      rw [if_neg]
      rw [cellWritesOk, Bool.and_eq_true, decide_eq_true_iff, decide_eq_true_iff]
      exact fun hok => h (List.mem_map.mpr ⟨writes.length - 1, List.mem_range.mpr (by omega), by omega⟩)
    · simp only [lampsBody, hread]
  good body h := by
    obtain ⟨n, hn, hlength⟩ := List.mem_map.mp h
    have hn := List.mem_range.mp hn
    rcases readCells_cases body with ⟨writes, hread, hwrites⟩ | ⟨-, hodd⟩
    · refine ⟨.writeLamps writes, ?_, rfl⟩
      simp only [lampsBody, hread]
      rw [if_pos]
      rw [cellWritesOk, Bool.and_eq_true, decide_eq_true_iff, decide_eq_true_iff]
      omega
    · omega

/-- The body of every command is read at the lengths that section 11.4 gives its code (R169). -/
theorem commandOf_reads (c : Command) : Reads (commandOf c.code) c.code c.bodyLengths := by
  cases c with
  | portReset | tableReset | readClock | disarm | readCompletions | readRing | readRail | clearAlarm | readAlarm
  | readSwitches | readSwitchEvents | takeEvent => exact plainBody_reads _
  | cancelOrder | readProfile | readChannel | clearFault | setMode | readReflex | readLamps =>
    exact byteBody_reads fun _ => rfl
  | setAlarmTime => exact timeBody_reads
  | postOrder => exact orderBody_reads
  | writeProfile => exact profileBody_reads
  | writeRail => exact railBody_reads
  | writeSwitchConfig => exact switchBody_reads
  | subscribe => exact setBody_reads
  | writeReflex => exact reflexBody_reads
  | writeLamps => exact lampsBody_reads
  | writeLampConfig => exact lampConfigBody_reads
  | writeAttention => exact attentionBody_reads

/-- Settles O12: the CRC is `checkFrame_of_wrongCrc`; behind a right one the code and the length decide
(`commandOf_unknown`, `commandOf_reads`). -/
theorem frameChecks : Obligations.FrameChecks := by
  refine ⟨rfl, fun bytes b => checkFrame_of_wrongCrc, fun len code body hcode => ?_, fun len c body hlength => ?_,
    fun len c body hlength => ?_, fun c => ?_⟩
  · rw [checkFrame_closeFrame, commandOf_unknown hcode]
  · rw [checkFrame_closeFrame, (commandOf_reads c).bad body hlength]
  · rw [checkFrame_closeFrame]
    exact (commandOf_reads c).good body hlength
  · cases c <;> rfl

end Sys2Proof.Machine

/-!
The frame of a command is read back.
-/

namespace Sys2Proof.Machine

/-! ## The fields of a body -/

theorem extractLsb'_whole {w : Nat} (v : BitVec w) : v.extractLsb' (8 * 0) w = v := BitVec.extractLsb'_eq_self

theorem number2_split2 (v : BitVec 16) : number2 (byteAt v 1) (byteAt v 0) = v := by
  simp only [number2, byteAt, BitVec.extractLsb'_append_extractLsb'_eq_extractLsb']
  exact extractLsb'_whole v

theorem number3_split3 (v : BitVec 24) : number3 (byteAt v 2) (byteAt v 1) (byteAt v 0) = v := by
  simp only [number3, byteAt, BitVec.extractLsb'_append_extractLsb'_eq_extractLsb']
  exact extractLsb'_whole v

theorem number4_split4 (v : BitVec 32) : number4 (byteAt v 3) (byteAt v 2) (byteAt v 1) (byteAt v 0) = v := by
  simp only [number4, byteAt, BitVec.extractLsb'_append_extractLsb'_eq_extractLsb']
  exact extractLsb'_whole v

theorem set4_bytes (v : BitVec 32) : set4 (byteAt v 0) (byteAt v 1) (byteAt v 2) (byteAt v 3) = v :=
  number4_split4 v

theorem set5_bytes (v : BitVec 40) :
    set5 (byteAt v 0) (byteAt v 1) (byteAt v 2) (byteAt v 3) (byteAt v 4) = v := by
  simp only [set5, byteAt, BitVec.extractLsb'_append_extractLsb'_eq_extractLsb']
  exact extractLsb'_whole v

theorem flagByte_ne_zero (b : Bool) : (flagByte b != 0) = b := by cases b <;> rfl

/-- The low bits of a byte below others. -/
theorem extractLsb'_low {h l : Nat} (hi : BitVec h) (lo : BitVec l) : (hi ++ lo).extractLsb' 0 l = lo := by
  rw [BitVec.extractLsb'_append_eq_of_add_le (Nat.zero_add l).le]
  exact BitVec.extractLsb'_eq_self

theorem orderFlags_follow (r : OrderRecord) : (orderFlags r).getLsbD 6 = r.follow := by
  simp only [orderFlags, BitVec.getLsbD_append, BitVec.getLsbD_ofBool]
  rfl

theorem orderFlags_quiet (r : OrderRecord) : (orderFlags r).getLsbD 7 = r.quiet := by
  simp only [orderFlags, BitVec.getLsbD_append, BitVec.getLsbD_ofBool]
  rfl

/-- An order record is read back from its bytes (11, section 11.5). -/
theorem readOrder_bytes (r : OrderRecord) :
    readOrder r.tag r.channel r.kind (orderFlags r) ((0 : BitVec 3) ++ r.fraction) ((0 : BitVec 2) ++ r.count)
      (byteAt r.gap 1) (byteAt r.gap 0) r.due = r := by
  have hpriority : (orderFlags r).extractLsb' 0 3 = r.priority := extractLsb'_low _ r.priority
  simp only [readOrder, hpriority, orderFlags_follow, orderFlags_quiet, extractLsb'_low, number2_split2]

theorem orderBody_orderBytes (r : OrderRecord) : orderBody (orderBytes r) = .ok (.postOrder r) := by
  have hread := readOrder_bytes r
  cases hdue : r.due with
  | none =>
    rw [hdue] at hread
    simp only [orderBytes, hdue, split2, List.cons_append, List.nil_append, orderBody, hread]
  | some due =>
    rw [hdue] at hread
    simp only [orderBytes, hdue, split2, split4, List.cons_append, List.nil_append, orderBody, number4_split4, hread]

/-- The flags of a profile are read back (11, section 11.4). -/
theorem profileFlags_bits (r : ProfileRecord) :
    (profileFlags r).getLsbD 0 = r.enabled ∧ (profileFlags r).getLsbD 1 = r.overtimeLatches
      ∧ (profileFlags r).getLsbD 2 = r.postP0 ∧ (profileFlags r).getLsbD 3 = r.postP1
      ∧ (profileFlags r).getLsbD 4 = r.postP2 := by
  simp only [profileFlags, BitVec.getLsbD_append, BitVec.getLsbD_ofBool]
  exact ⟨rfl, rfl, rfl, rfl, rfl⟩

theorem profileBody_profileRecordBytes (channel : Byte) (r : ProfileRecord) :
    profileBody (channel :: profileRecordBytes r) = .ok (.writeProfile channel r) := by
  obtain ⟨henabled, hlatches, hp0, hp1, hp2⟩ := profileFlags_bits r
  simp only [profileRecordBytes, split2, split3, List.cons_append, List.nil_append, profileBody, number2_split2,
    number3_split3, henabled, hlatches, hp0, hp1, hp2]

theorem modesByte_bits (inAttract inGame : Bool) :
    (modesByte inAttract inGame).getLsbD 0 = inAttract ∧ (modesByte inAttract inGame).getLsbD 1 = inGame := by
  simp only [modesByte, BitVec.getLsbD_append, BitVec.getLsbD_ofBool]
  exact ⟨rfl, rfl⟩

theorem reflexBody_bytes (entry : Byte) (r : ReflexRecord) :
    reflexBody (Command.writeReflex entry r).body = .ok (.writeReflex entry r) := by
  obtain ⟨hattract, hgame⟩ := modesByte_bits r.inAttract r.inGame
  simp only [Command.body, reflexBody, flagByte_ne_zero, hattract, hgame]

theorem lampConfigBody_bytes (flags : BitVec 40) (inrushTime : BitVec 16) (slotLimit : Byte) :
    lampConfigBody (Command.writeLampConfig flags inrushTime slotLimit).body =
      .ok (.writeLampConfig flags inrushTime slotLimit) := by
  simp only [Command.body, split2, List.cons_append, List.nil_append, lampConfigBody, set5_bytes, number2_split2]

theorem readCells_flatMap (writes : List CellWrite) : readCells (writes.flatMap cellBytes) = some writes := by
  induction writes with
  | nil => rfl
  | cons w writes ih => simp [cellBytes, readCells, ih]

theorem lampsBody_flatMap {writes : List CellWrite} (h : cellWritesOk writes = true) :
    lampsBody (writes.flatMap cellBytes) = .ok (.writeLamps writes) := by
  simp only [lampsBody, readCells_flatMap, if_pos h]

theorem attentionBody_toList (v : Vector Byte 7) (threshold lowMark : Byte) :
    attentionBody (v.toList ++ [threshold, lowMark]) = .ok (.writeAttention v threshold lowMark) := by
  obtain ⟨⟨l⟩, hlength⟩ := v
  match l, hlength with
  | [_, _, _, _, _, _, _], _ => rfl

/-! ## The frame -/

/-- Every command is read back from its code and its body. -/
theorem commandOf_body {c : Command} (h : c.wellFormed = true) : commandOf c.code c.body = .ok c := by
  cases c with
  | portReset | tableReset | readClock | disarm | readCompletions | readRing | readRail | clearAlarm | readAlarm
  | readSwitches | readSwitchEvents | takeEvent => rfl
  | cancelOrder | readProfile | readChannel | clearFault | setMode | readReflex | readLamps | writeRail => rfl
  | setAlarmTime time => exact congrArg (fun t => Except.ok (Command.setAlarmTime t)) (number4_split4 time)
  | subscribe set => exact congrArg (fun v => Except.ok (Command.subscribe v)) (set4_bytes set)
  | postOrder order => exact orderBody_orderBytes order
  | writeProfile channel profile => exact profileBody_profileRecordBytes channel profile
  | writeSwitchConfig switch closedHigh closeTime openTime =>
    exact congrArg (fun b => Except.ok (Command.writeSwitchConfig switch b closeTime openTime))
      (flagByte_ne_zero closedHigh)
  | writeReflex entry r => exact reflexBody_bytes entry r
  | writeLamps writes => exact lampsBody_flatMap h
  | writeLampConfig flags inrushTime slotLimit => exact lampConfigBody_bytes flags inrushTime slotLimit
  | writeAttention priorities threshold lowMark => exact attentionBody_toList priorities threshold lowMark

theorem length_body {c : Command} (h : c.wellFormed = true) : c.body.length ∈ c.bodyLengths := by
  by_contra hlength
  cases ((commandOf_reads c).bad c.body hlength).symm.trans (commandOf_body h)

theorem bodyLengths_range (c : Command) : ∀ n ∈ c.bodyLengths, 1 ≤ n ∧ n ≤ 60 := by
  unfold Command.bodyLengths
  split <;> decide

theorem length_frame (c : Command) : c.frame.length = 3 + c.body.length := by
  simp only [Command.frame, closeFrame, List.length_append, List.length_cons, List.length_nil]
  omega

/-- Settles O11: the CRC holds and the body is read back (`commandOf_body`); a body of 1 to 60 bytes has three more in
its frame. -/
theorem frameOfACommandIsRead : Obligations.FrameOfACommandIsRead := by
  refine ⟨fun c hc => ?_, fun c hc => ?_⟩
  · rw [Command.frame, checkFrame_closeFrame, commandOf_body hc]
  · obtain ⟨hlow, hhigh⟩ := bodyLengths_range c _ (length_body hc)
    rw [length_frame]
    exact ⟨by omega, by omega, rfl⟩

end Sys2Proof.Machine

/-!
The bytes of a link, the take of a frame and the end of a reply.
-/

namespace Sys2Proof.Machine

/-! ## A port's link -/

@[simp] theorem link_modLink_self (s : State) (p : Port) (f : Link → Link) : (s.modLink p f).link p = f (s.link p) := by
  simp [State.link, State.modLink]

theorem modLink_modLink (s : State) (p : Port) (f g : Link → Link) :
    (s.modLink p f).modLink p g = s.modLink p fun l => g (f l) :=
  State.modPort_modPort ..

/-- Two changes of a link that agree on the link held are one. -/
theorem modLink_congr {s : State} {p : Port} {f g : Link → Link} (h : f (s.link p) = g (s.link p)) :
    s.modLink p f = s.modLink p g :=
  State.modPort_congr (by rw [show f (s.port p).link = g (s.port p).link from h])

/-! ## The take of a frame -/

/-- A frame taken on a ready port is answered with the status of the check it fails, or is its command's row
(R165, R166). -/
theorem takeFrame_decided {s : State} {p : Port} (hs : s.ready p) (f : Frame) :
    (∀ status, checkFrame f = .error status → (s.takeFrame p f).decideLines = s.answered p status [])
      ∧ ∀ c, checkFrame f = .ok c → .next (s.takeFrame p f).decideLines = exec (c.row p) s := by
  refine ⟨fun status h => ?_, fun c h => ?_⟩
  · simp only [State.takeFrame, frameAnswer, h]
    rfl
  · simp only [exec_row_of_ready hs, State.takeFrame, frameAnswer, h]
    rfl

theorem frameComplete_of_idle {s : State} {p : Port} (h : (s.link p).sending = none) (f : Frame) :
    s.frameComplete p f = s.takeFrame p f := by
  simp only [State.frameComplete, h]

/-- A frame that completes while a reply is being sent is held, or lost if one is held (R165). -/
theorem frameComplete_of_sending {s : State} {p : Port} (h : (s.link p).sending ≠ none) (f : Frame) :
    s.frameComplete p f =
      s.modLink p fun l => { l with held := l.held.or (some f), lost := l.lost || l.held.isSome } := by
  obtain ⟨reply, hreply⟩ := Option.ne_none_iff_exists'.mp h
  cases hheld : (s.link p).held with
  | none =>
    simp only [State.frameComplete, hreply, hheld]
    exact modLink_congr (by simp [hheld])
  | some held =>
    simp only [State.frameComplete, hreply, hheld]
    exact modLink_congr (by simp [hheld])

/-! ## Bytes and gaps -/

theorem takeByte_first {s : State} {p : Port} (h : (s.link p).receive = .empty) (b : Byte) :
    s.takeByte p b = s.receiveMore p (if 4 ≤ b.toNat ∧ b.toNat ≤ 64 then .part [b] else .discarding) := by
  simp only [State.takeByte, h]
  split <;> rfl

/-- A byte that joins a frame completes it when the frame has the length that its first byte gives (R163). -/
theorem takeByte_joins {s : State} {p : Port} {n : Byte} {bytes : List Byte}
    (h : (s.link p).receive = .part (n :: bytes)) (b : Byte) :
    s.takeByte p b =
      if bytes.length + 2 = n.toNat then (s.receiveDone p).frameComplete p (.bytes (n :: bytes ++ [b]))
      else s.receiveMore p (.part (n :: bytes ++ [b])) := by
  have hlength : (n :: bytes ++ [b]).length = bytes.length + 2 := by simp
  simp only [State.takeByte, h, hlength]
  rfl

theorem takeByte_discards {s : State} {p : Port} (h : (s.link p).receive = .discarding) (b : Byte) :
    s.takeByte p b = s.receiveMore p .discarding := by
  simp only [State.takeByte, h]

theorem exec_receiveByte {s : State} (h : s.powered = true) (p : Port) (b : Byte) :
    exec (.receiveByte p b) s = .next (s.takeByte p b).decideLines :=
  event_of_powered h (State.takeByte · p b)

/-- The gap expiry of a receive buffer that is not empty (R164). -/
theorem exec_gapExpiry {s : State} (h : s.powered = true) {p : Port} {expiry : Nat}
    (hgap : (s.link p).gapAt = some expiry) (hdue : expiry ≤ s.now) :
    (∀ bytes, (s.link p).receive = .part bytes → exec (.gapExpiry p) s =
      .next ((s.receiveDone p).modLink p fun l => { l with lost := true }).decideLines)
    ∧ ((s.link p).receive = .discarding → exec (.gapExpiry p) s =
      .next ((s.receiveDone p).frameComplete p .discarded).decideLines) := by
  have hexpired : s.expired (s.link p).gapAt = true := by rw [hgap]; exact decide_eq_true hdue
  have hrow : exec (.gapExpiry p) s = .next (s.takeGap p).decideLines := event_of_powered h (State.takeGap · p)
  refine ⟨fun bytes hreceive => ?_, fun hreceive => ?_⟩
  · simp only [hrow, State.takeGap, if_pos hexpired, hreceive]
  · simp only [hrow, State.takeGap, if_pos hexpired, hreceive]

/-- Settles O9: the byte goes where the receive buffer stands (`takeByte_first`, `takeByte_joins`,
`takeByte_discards`), and a gap expiry is `exec_gapExpiry`. -/
theorem bytesAndGaps : Obligations.BytesAndGaps := by
  refine ⟨fun s p b hs => ⟨fun hreceive => ?_, fun n bytes hreceive hlength => ?_, fun hreceive => ?_⟩,
    fun s p expiry hs hgap hdue => ?_⟩
  · rw [exec_receiveByte hs, takeByte_first hreceive]
    rfl
  · rw [exec_receiveByte hs, takeByte_joins hreceive, if_neg hlength]
    rfl
  · rw [exec_receiveByte hs, takeByte_discards hreceive]
    rfl
  · intro s1
    obtain ⟨hpart, hdiscarding⟩ := exec_gapExpiry hs hgap hdue
    have hsending : (s1.link p).sending = (s.link p).sending := by simp [s1]
    refine ⟨hpart, fun hreceive hidle => ?_, fun hreceive hbusy => ?_⟩
    · have hready : s1.ready p := ⟨hs, hsending.trans hidle⟩
      have htake := (takeFrame_decided hready .discarded).1 .badFrame rfl
      rw [hdiscarding hreceive, ← htake, ← frameComplete_of_idle hready.2]
      rfl
    · rw [hdiscarding hreceive, ← frameComplete_of_sending (hsending ▸ hbusy)]
      rfl

/-- Settles O10: the frame is complete (`takeByte_joins`), and is taken (`takeFrame_decided`) or held or lost
(`frameComplete_of_sending`). -/
theorem lastByteOfAFrame : Obligations.LastByteOfAFrame := by
  refine ⟨fun s p n b bytes hs hreceive hlength => ?_, fun s p n b bytes hs hreceive hlength hbusy => ?_⟩
  · intro s1
    have hready : s1.ready p := ⟨hs.1, by simpa [s1] using hs.2⟩
    have hrow : exec (.receiveByte p b) s = .next (s1.takeFrame p (.bytes (n :: bytes ++ [b]))).decideLines := by
      rw [exec_receiveByte hs.1, takeByte_joins hreceive, if_pos hlength, ← frameComplete_of_idle hready.2]
      rfl
    obtain ⟨hrefused, htaken⟩ := takeFrame_decided hready (.bytes (n :: bytes ++ [b]))
    exact ⟨fun status h => by rw [hrow, hrefused status h], fun c h => by rw [hrow, htaken c h]⟩
  · have hbusy' : ((s.receiveDone p).link p).sending ≠ none := by simpa [State.receiveDone] using hbusy
    rw [exec_receiveByte hs, takeByte_joins hreceive, if_pos hlength, frameComplete_of_sending hbusy',
      State.receiveDone, modLink_modLink]

/-! ## The end of a reply -/

theorem exec_replyEnd {s : State} (h : s.powered = true) {p : Port} {reply : List Byte}
    (hsending : (s.link p).sending = some reply) : exec (.replyEnd p) s = .next (s.afterReply p).decideLines := by
  have hrow : exec (.replyEnd p) s = .next (s.takeReplyEnd p).decideLines :=
    event_of_powered h (State.takeReplyEnd · p)
  simp only [hrow, State.takeReplyEnd, hsending]

/-- The transmitter becomes idle; with no reset awaited, a held frame is taken then (R167). -/
theorem afterReply_of_none {s : State} {p : Port} (h : (s.link p).awaiting = none) :
    ((s.link p).held = none → s.afterReply p = s.modLink p fun l => { l with sending := none })
    ∧ ∀ f, (s.link p).held = some f →
      s.afterReply p = (s.modLink p fun l => { l with sending := none, held := none }).takeFrame p f := by
  refine ⟨fun hheld => ?_, fun f hheld => ?_⟩
  · simp only [State.afterReply, h, hheld]
  · simp only [State.afterReply, h, hheld, modLink_modLink]

/-- Settles O14: `afterReply_of_none`, and for a command row the end of a reply that leaves the port ready. -/
theorem replyEndTakesHeldFrame : Obligations.ReplyEndTakesHeldFrame := by
  refine ⟨fun s p reply hs hsending hawaiting => ?_, fun s p c reply hs hsending hawaiting hheld => ?_⟩
  · intro s1
    obtain ⟨hnone, hsome⟩ := afterReply_of_none hawaiting
    refine ⟨fun hheld => by rw [exec_replyEnd hs hsending, hnone hheld], fun f hheld => ?_⟩
    intro s2
    have hready : s2.ready p := ⟨hs, by simp [s2]⟩
    obtain ⟨hrefused, htaken⟩ := takeFrame_decided hready f
    rw [exec_replyEnd hs hsending, hsome f hheld]
    exact ⟨fun status h => by rw [hrefused status h], fun c h => htaken c h⟩
  · have hready : (s.modLink p fun l => { l with sending := none }).ready p := ⟨hs, by simp⟩
    have hfirst : s.takeReplyEnd p = s.modLink p fun l => { l with sending := none } := by
      simp only [State.takeReplyEnd, hsending, (afterReply_of_none hawaiting).1 hheld]
    have hsecond := State.finishReplies_of_ready hready
    have hreplies : s.finishReplies p = s.modLink p fun l => { l with sending := none } := by
      rw [State.finishReplies, hfirst]
      unfold State.takeReplyEnd
      rw [hready.2]
    rw [exec_row, exec_row, event_of_powered hs, event_of_powered hready.1, commandRow, commandRow, hreplies, hsecond]

end Sys2Proof.Machine

/-!
SUPPORT. What the parts of an event spare: the pulse of a channel that is not IDLE, and a port that has no order in its
ring or in the pending table.
-/

namespace Sys2Proof.Machine

/-! ## What is spared -/

/-- A port has no order in its ring and none in the pending table. -/
def State.Cleared (s : State) (p : Port) : Prop := (s.port p).ring.slots = [] ∧ ∀ e ∈ s.table, e.port ≠ p

/-- No order of a port stands in a channel queue or in the admission list. -/
def State.Unheld (s : State) (p : Port) : Prop :=
  (∀ c, ∀ q ∈ (s.chan c).queue, ∀ tag, q.owner ≠ .order p tag) ∧ ∀ m ∈ s.arbiter.list, ∀ tag, m.owner ≠ .order p tag

/-- A state in which every channel that was not IDLE has the state and the pulse it had, and a port that was cleared has
the record it had, no new entry and no new place. -/
structure State.Spared (p : Port) (t s : State) : Prop where
  coil : ∀ c, (s.chan c).phase ≠ .idle → (t.chan c).phase = (s.chan c).phase ∧ (t.chan c).pulse = (s.chan c).pulse
  record : s.Cleared p → t.port p = s.port p
  entries : s.Cleared p → ∀ e ∈ t.table, e.port ≠ p
  unheld : s.Cleared p → s.Unheld p → t.Unheld p

section Spared

variable {p : Port} {r s t : State}

theorem State.Spared.refl (s : State) : s.Spared p s := ⟨fun _ _ => ⟨rfl, rfl⟩, fun _ => rfl, fun h => h.2, fun _ => id⟩

theorem State.Spared.cleared (h : t.Spared p s) (hs : s.Cleared p) : t.Cleared p :=
  ⟨by rw [h.record hs]; exact hs.1, h.entries hs⟩

theorem State.Spared.trans (h : t.Spared p s) (h' : s.Spared p r) : t.Spared p r where
  coil c hc := by
    obtain ⟨hphase', hpulse'⟩ := h'.coil c hc
    obtain ⟨hphase, hpulse⟩ := h.coil c (hphase' ▸ hc)
    exact ⟨hphase.trans hphase', hpulse.trans hpulse'⟩
  record hr := (h.record (h'.cleared hr)).trans (h'.record hr)
  entries hr := h.entries (h'.cleared hr)
  unheld hr hnone := h.unheld (h'.cleared hr) (h'.unheld hr hnone)

/-! ## Writes that spare -/

/-- A write of a channel that is IDLE, or that leaves its state and pulse, with no new member of the port's. -/
theorem spared_modChan {c : Chan} {f : Channel → Channel}
    (hcoil : (s.chan c).phase ≠ .idle →
      (f (s.chan c)).phase = (s.chan c).phase ∧ (f (s.chan c)).pulse = (s.chan c).pulse)
    (hqueue : s.Cleared p → ∀ q ∈ (f (s.chan c)).queue, q ∈ (s.chan c).queue ∨ ∀ tag, q.owner ≠ .order p tag) :
    (s.modChan c f).Spared p s where
  coil d hd := by
    rw [State.chan_modChan]
    split
    · rename_i hc; subst hc; exact hcoil hd
    · exact ⟨rfl, rfl⟩
  record _ := rfl
  entries h := h.2
  unheld hs hnone := by
    refine ⟨fun d q hq tag => ?_, hnone.2⟩
    rw [State.chan_modChan] at hq
    split at hq
    · exact (hqueue hs q hq).elim (fun hq => hnone.1 c q hq tag) fun h => h tag
    · exact hnone.1 d q hq tag

/-- A note on a channel that leaves its state and pulse, and adds no member to its queue. -/
theorem spared_note (c : Chan) {f : Channel → Channel}
    (hf : ∀ ch, (f ch).phase = ch.phase ∧ (f ch).pulse = ch.pulse ∧ ∀ q ∈ (f ch).queue, q ∈ ch.queue := by
      exact fun _ => ⟨rfl, rfl, fun _ hq => hq⟩) : (s.modChan c f).Spared p s := by
  obtain ⟨hphase, hpulse, hqueue⟩ := hf (s.chan c)
  exact spared_modChan (fun _ => ⟨hphase, hpulse⟩) fun _ q hq => .inl (hqueue q hq)

theorem spared_reflexes (v : Vector Reflex 16) : State.Spared p { s with reflexes := v } s :=
  { State.Spared.refl s with }

theorem spared_arbiter {a : Arbiter} (h : s.Unheld p → ∀ m ∈ a.list, ∀ tag, m.owner ≠ .order p tag) :
    State.Spared p { s with arbiter := a } s :=
  { State.Spared.refl s with unheld := fun _ hnone => ⟨hnone.1, h hnone⟩ }

/-- A list with no new member. -/
theorem spared_list {a : Arbiter} (h : ∀ m ∈ a.list, m ∈ s.arbiter.list) : State.Spared p { s with arbiter := a } s :=
  spared_arbiter fun hnone m hm => hnone.2 m (h m hm)

theorem spared_modEntry (q : Port) (tag : Byte) {f : Entry → Entry} (hf : ∀ e, (f e).port = e.port) :
    (s.modEntry q tag f).Spared p s :=
  { State.Spared.refl s with
    entries := fun h e he => by
      obtain ⟨g, hg, rfl⟩ := List.mem_map.mp he
      split
      · rw [hf]; exact h.2 g hg
      · exact h.2 g hg }

/-! ## Owners -/

theorem spared_tellRailWait (o : Owner) : (s.tellRailWait o).Spared p s := by
  cases o with
  | order q tag => exact spared_modEntry q tag fun _ => rfl
  | reflex x => exact spared_reflexes _

theorem spared_tellHeatWait (o : Owner) : (s.tellHeatWait o).Spared p s := by
  cases o with
  | order q tag => exact spared_modEntry q tag fun _ => rfl
  | reflex x => exact spared_reflexes _

theorem spared_tellKick (o : Owner) : (s.tellKick o).Spared p s := by
  cases o with
  | order q tag => exact spared_modEntry q tag fun e => KeptCore.moveTo_port e .running
  | reflex x => exact spared_reflexes _

theorem spared_tellRailWaits (l : List Member) (s : State) : (s.tellRailWaits l).Spared p s := by
  induction l generalizing s with
  | nil => exact .refl s
  | cons m l ih => exact (ih _).trans (spared_tellRailWait m.owner)

/-! ## The arbiter -/

/-- Grants are made to IDLE channels alone (R14, R65). -/
theorem spared_grant {m : Member} (hidle : (s.chan m.channel).phase = .idle) : (s.grant m).Spared p s := by
  have hcoil : ∀ units, ((s.withUnits units).modChan m.channel fun ch =>
      { ch.updateHeat s.now with
        phase := .kick
        pulse := some (s.newPulse m)
        queue := ch.queue.filter fun q => q.owner != m.owner
        front := .channelWait
        shortAt := none }).Spared p s := fun units =>
    State.Spared.trans (s := s.withUnits units)
      (spared_modChan (fun h => absurd hidle h) fun _ q hq => .inl (List.mem_filter.mp hq).1) (spared_list fun _ hm => hm)
  rw [State.grant, setPhase_eq, State.modChan_modChan]
  exact (spared_tellKick m.owner).trans (hcoil _)

theorem grant_list (s : State) (m : Member) : (s.grant m).arbiter.list = s.arbiter.list := by
  unfold State.grant
  cases m.owner <;> rfl

theorem spared_examineFrom (l : List Member) :
    ∀ s : State, (∀ m ∈ l, m ∈ s.arbiter.list) → (examineFrom l s).Spared p s := by
  induction l with
  | nil => exact fun s _ => .refl s
  | cons m l ih =>
    intro s hl
    rw [examineFrom]
    split
    · rename_i hfit
      simp only [Bool.and_eq_true, beq_iff_eq] at hfit
      refine (ih _ fun x hx => by rw [grant_list]; exact hx).trans ?_
      exact State.Spared.trans (s := { s with arbiter := { s.arbiter with list := l } }) (spared_grant hfit.2)
        (spared_list fun x hx => hl x (List.mem_cons_of_mem _ hx))
    · exact .refl s

theorem spared_examine : s.examine.Spared p s := spared_examineFrom _ s fun _ hm => hm

theorem spared_examineIf (ex : Bool) : (s.examineIf ex).Spared p s := by
  cases ex
  · exact .refl s
  · exact spared_examine

/-- A member of a queue that joins the list takes no new place for the port. -/
theorem spared_joined {c : Chan} {q : QueueMember} (hq : q ∈ (s.chan c).queue) : (s.joined c q).Spared p s := by
  refine (spared_note c).trans (spared_arbiter fun hnone m hm => ?_)
  rcases List.mem_cons.mp ((insertMember_perm _ _).mem_iff.mp hm) with rfl | hm
  · exact hnone.1 c q hq
  · exact hnone.2 m hm

theorem spared_join {c : Chan} {q : QueueMember} (hq : q ∈ (s.chan c).queue) (ex : Bool) :
    (s.join ex c q).Spared p s := by
  cases ex
  · exact spared_joined hq
  · rw [join_eq]
    split
    · exact (spared_tellRailWait _).trans (spared_examine.trans (spared_joined hq))
    · exact spared_examine.trans (spared_joined hq)

theorem spared_depart (ex : Bool) (c : Chan) : (s.depart ex c).Spared p s := by
  unfold State.depart
  split
  · exact (spared_examineIf ex).trans (spared_list fun m hm => (List.mem_filter.mp hm).1)
  · exact .refl s

theorem spared_displace (ex : Bool) (c : Chan) : (s.displace ex c).Spared p s := by
  refine (spared_depart ex c).trans ((spared_note c).trans ?_)
  split
  · exact .refl s
  · exact spared_tellRailWaits _ s

theorem spared_kickTest (ex : Bool) (c : Chan) : (s.kickTest ex c).Spared p s := by
  have hheat : (s.updateHeat c).Spared p s := spared_note c
  unfold State.kickTest
  split
  · exact .refl s
  · rename_i q rest hqueue
    dsimp only
    split
    · refine (spared_join ?_ ex).trans hheat
      rw [State.updateHeat, State.chan_modChan_self]
      exact hqueue ▸ List.mem_cons_self
    · exact (spared_tellHeatWait _).trans ((spared_note c).trans hheat)

/-! ## The channel queue -/

theorem spared_leaveQueue (ex : Bool) (c : Chan) (o : Owner) : (s.leaveQueue ex c o).Spared p s := by
  have hleft : ∀ front : Front, (s.modChan c fun ch =>
      { ch with queue := ch.queue.filter fun q => q.owner != o, front := front }).Spared p s := fun _ =>
    spared_note c fun _ => ⟨rfl, rfl, fun _ hq => (List.mem_filter.mp hq).1⟩
  rw [State.leaveQueue]
  split
  · exact (spared_depart ex c).trans (hleft _)
  · exact hleft _

theorem spared_enqueue (ex : Bool) (c : Chan) {q : QueueMember} (hq : s.Cleared p → ∀ tag, q.owner ≠ .order p tag) :
    (enqueue ex c q s).state.Spared p s := by
  have hjoins : (s.modChan c fun ch => { ch with queue := insertQueue q ch.queue }).Spared p s :=
    spared_modChan (fun _ => ⟨rfl, rfl⟩) fun hs x hx => by
      rcases List.mem_cons.mp ((insertQueue_perm q _).mem_iff.mp hx) with rfl | hx
      · exact .inr (hq hs)
      · exact .inl hx
  unfold enqueue
  dsimp only
  split
  · exact (spared_displace ex c).trans hjoins
  · exact hjoins

/-! ## The parts of an event -/

theorem spared_offer (ex : Bool) (cs : List Chan) : (offer ex cs s).state.Spared p s := by
  unfold offer
  split
  · exact .refl s
  · split
    · exact .refl s
    · split
      · exact spared_kickTest ex _
      · dsimp only
        split
        · exact spared_leaveQueue ex _ _
        · exact (spared_reflexes _).trans (spared_leaveQueue ex _ _)

/-- A port with an entry is not cleared. -/
theorem port_ne_of_entry {q : Port} {tag : Byte} (hentry : (s.entry q tag).isSome = true) (hs : s.Cleared p) :
    q ≠ p := by
  obtain ⟨e, he⟩ := Option.isSome_iff_exists.mp hentry
  have his : e.is q tag = true := List.find?_some (p := fun e : Entry => e.is q tag) he
  exact (Entry.is_iff.mp his).1 ▸ hs.2 e (List.mem_of_find?_eq_some he)

theorem port_ne_of_liveEntry {q : Port} {tag : Byte} (hlive : (s.liveEntry q tag).isSome = true) (hs : s.Cleared p) :
    q ≠ p := by
  obtain ⟨e, he⟩ := Option.isSome_iff_exists.mp hlive
  exact (liveEntry_is he).1 ▸ hs.2 e (List.mem_of_find?_eq_some he)

theorem spared_arrive (ex : Bool) (q : Port) (tag : Byte) : (arrive ex q tag s).state.Spared p s := by
  unfold arrive
  split
  · exact .refl s
  · rename_i e hentry
    dsimp only
    split
    · exact .refl s
    · exact .refl s
    · let f : Entry → Entry := fun e' => { e'.moveTo .queued with arrival := some (s.chan e.order.channel).arrivals }
      have hport : ∀ e', (f e').port = e'.port := fun e' => KeptCore.moveTo_port e' .queued
      have hsome : ((s.modEntry q tag f).entry q tag).isSome = true := by
        rw [entry_modEntry fun e' => ⟨hport e', e'.order_moveTo .queued⟩, hentry]
        rfl
      refine (spared_enqueue ex _ fun hcleared t ht => ?_).trans ((spared_note _).trans (spared_modEntry q tag hport))
      exact port_ne_of_entry (q := q) (tag := tag) hsome hcleared (Owner.order.inj ht).1

theorem spared_ready (q : Port) (tag : Byte) : (ready q tag s).state.Spared p s := by
  unfold ready
  split
  · exact .refl s
  · split
    · exact .refl s
    · split
      · exact .refl s
      · exact spared_modEntry q tag fun e => KeptCore.moveTo_port e _

theorem spared_conclude {e : Entry} (he : s.Cleared p → e.port ≠ p) (status : EndStatus) :
    (s.conclude e status).Spared p s := by
  obtain ⟨f, l, hshape, -, htable⟩ := conclude_shape s e status
  obtain ⟨hchannels, -, harbiter⟩ := conclude_rest s e status
  refine ⟨fun c _ => ?_, fun hs => ?_, fun hs g hg => ?_, fun _ hnone => ⟨fun c q hq => ?_, fun m hm => ?_⟩⟩
  · rw [conclude_chan]
    exact ⟨rfl, rfl⟩
  · rw [hshape]
    exact State.port_modPort_ne s (he hs) f
  · rw [hshape] at hg
    have hports : ∀ g ∈ l, ∃ g' ∈ s.table, g'.port = g.port := by
      rcases htable with rfl | rfl
      · exact fun g hg => ⟨g, (List.mem_filter.mp hg).1, rfl⟩
      · intro g hg
        obtain ⟨g', hg', rfl⟩ := List.mem_map.mp hg
        exact ⟨g', hg', by split <;> rfl⟩
    obtain ⟨g', hg', hport⟩ := hports g hg
    exact hport ▸ hs.2 g' hg'
  · rw [conclude_chan] at hq
    exact hnone.1 c q hq
  · rw [harbiter] at hm
    exact hnone.2 m hm

theorem spared_finish (ex : Bool) (q : Port) (tag : Byte) (status : EndStatus) :
    (finish ex q tag status s).state.Spared p s := by
  unfold finish
  split
  · exact .refl s
  · rename_i e hlive
    have hlives := (noMore_leaveQueue s ex e.order.channel (.order q tag)).liveEntry q tag
    rw [hlive] at hlives
    exact (spared_conclude (fun hs => (liveEntry_is hlive).1 ▸ port_ne_of_liveEntry hlives hs) status).trans
      (spared_leaveQueue ex _ _)

theorem spared_takeHead (q : Port) : (takeHead q s).state.Spared p s := by
  rcases takeHead_cases q s with h | ⟨slot, rest, hslots, h⟩ <;> rw [h]
  · exact .refl s
  · have hq : s.Cleared p → q ≠ p := fun hs hq => by
      rw [hq, hs.1] at hslots
      cases hslots
    refine ⟨fun _ _ => ⟨rfl, rfl⟩, fun hs => ?_, fun hs e he => ?_, fun _ => id⟩
    · exact State.port_modPort_ne s (hq hs) fun ps =>
        { ps with ring := ⟨(ps.ring.head + 1) % 32, rest⟩, tail := ⟨some slot.order.tag, .live⟩ }
    rcases List.mem_append.mp he with he | he
    · exact hs.2 e he
    · rw [List.mem_singleton.mp he]
      exact hq hs

theorem spared_run (ex : Bool) (w : Work) : (w.run ex s).state.Spared p s := by
  cases w with
  | offer cs => exact spared_offer ex cs
  | finish q tag status => exact spared_finish ex q tag status
  | ready q tag => exact spared_ready q tag
  | arrive q tag => exact spared_arrive ex q tag
  | takes q => exact spared_takeHead q

theorem spared_doAll (ex : Bool) (ws : List Work) : (s.doAll ex ws).Spared p s :=
  doAll_induct ex (I := fun _ t => t.Spared p s) (fun w _ _ h => (spared_run ex w).trans h) ws s (.refl s)

end Spared

end Sys2Proof.Machine

/-!
The resets by command (R171, R172).
-/

namespace Sys2Proof.Machine

/-! ## The end of a reply that a reset awaits -/

/-- A table reset awaited is that of RESETN's fall, but for the level (R172). -/
theorem exec_replyEnd_tableReset {s : State} (hs : s.powered = true) {p : Port} {reply : List Byte}
    (hsending : (s.link p).sending = some reply) (hawaiting : (s.link p).awaiting = some .table) :
    exec (.replyEnd p) s = .next s.tableReset := by
  have hlink : (s.modLink p fun l => { l with sending := none }).tableReset = s.tableReset := by
    cases p <;> rfl
  rw [exec_replyEnd hs hsending, State.afterReply, hawaiting]
  simp only [hlink, decideLines_tableReset]

theorem exec_replyEnd_portReset {s : State} (hs : s.powered = true) {p : Port} {reply : List Byte}
    (hsending : (s.link p).sending = some reply) (hawaiting : (s.link p).awaiting = some .port) :
    exec (.replyEnd p) s =
      .next ((s.modLink p fun l => { l with sending := none }).portReset p).decideLines := by
  rw [exec_replyEnd hs hsending, State.afterReply, hawaiting]

/-! ## The pulses of the port -/

/-- A channel recycles with a pulse. -/
def State.Rests (s : State) (c : Chan) (pu : Pulse) : Prop :=
  (s.chan c).phase = .recycle ∧ (s.chan c).pulse = some pu

theorem Pulse.ofPort_iff {pu : Pulse} {p : Port} :
    pu.ofPort p = true ↔ pu.owned = true ∧ ∃ tag, pu.owner = .order p tag := by
  unfold Pulse.ofPort
  split
  · rename_i q tag howner
    simp [howner, Owner.order.injEq]
  · rename_i x howner
    simp [howner]

section Pulses

variable {s : State} {c d : Chan} {p : Port}

theorem portResetPulse_of_other (h : (s.chan c).pulse.any (·.ofPort p) = false) : s.portResetPulse p c = s := by
  rw [State.portResetPulse, if_neg (by simp [h])]

theorem KeptCore.portResetPulse {P : State → Prop} (K : KeptCore P) (p : Port) (c : Chan) (hs : P s) :
    P (s.portResetPulse p c) := by
  unfold State.portResetPulse
  split
  · split
    · rename_i hlive
      exact K.abortPulse c (KeptCore.hasPulse_of_isLive hlive) hs
    · exact K.modPulse c _ (fun _ => rfl) hs
  · exact hs

/-- The channel of a live pulse that is aborted, with a recycle to come (R26, R27). -/
theorem chan_abortPulse {pu : Pulse} (hpu : (s.chan c).pulse = some pu) (hlength : 0 < pu.recycleLength) :
    (s.abortPulse c).chan c =
      { (s.chan c).updateHeat s.now with phase := .recycle, pulse := some (pu.unowned s.now) } := by
  have hgetD : ((s.chan c).pulse.map (·.recycleLength)).getD 0 ≠ 0 := by rw [hpu]; exact Nat.pos_iff_ne_zero.mp hlength
  simp only [State.abortPulse, State.cutPulse, if_neg hgetD, State.modPulse, State.chan_modChan_self, chan_tellAbort,
    stopPulse_eq hpu]
  rfl

theorem chan_startShort_ne (hdc : d ≠ c) : (s.startShort d).chan c = s.chan c := by
  unfold State.startShort
  split
  · exact State.chan_modChan_ne s hdc _
  · rfl

/-- The end of a recycle without an owner is a matter of its channel. -/
theorem chan_recycleOver_ne (hdc : d ≠ c) (howned : ∀ pu, (s.chan d).pulse = some pu → pu.owned = false) :
    (s.recycleOver d).2.chan c = s.chan c := by
  have hphase : ∀ ph g, ((s.setPhase d ph).modChan d g).chan c = s.chan c := fun ph g => by
    rw [State.chan_modChan_ne _ hdc, chan_setPhase, if_neg hdc]
  unfold State.recycleOver
  split
  · rfl
  · rename_i pu hpu
    have htold : ∀ (u : State) faulted, u.tellRecycleEnd d pu faulted = ([], u) := fun u faulted =>
      if_neg (by simp [howned pu hpu])
    split
    · simp only [htold]
      rw [chan_startShort_ne hdc, hphase]
    · simp only [htold, State.chan_setFaultEdges]
      rw [chan_withdrawRequests_ne _ hdc.symm, chan_startShort_ne hdc, hphase]

/-- The abort of another channel's pulse leaves the state and the pulse of a channel that is not IDLE. -/
theorem coil_abortPulse_ne (hdc : d ≠ c) (hc : (s.chan c).phase ≠ .idle) :
    ((s.abortPulse d).chan c).phase = (s.chan c).phase ∧ ((s.abortPulse d).chan c).pulse = (s.chan c).pulse := by
  let u := ((s.stopPulse d none).tellAbort d).modPulse d fun pu => { pu with owned := false }
  have hu : u.chan c = s.chan c := by
    simp only [u, State.modPulse, State.chan_modChan_ne _ hdc, chan_tellAbort, State.stopPulse, chan_setPhase,
      if_neg hdc]
  have howned : ∀ pu, (u.chan d).pulse = some pu → pu.owned = false := fun pu hpu => by
    simp only [u, State.modPulse, State.chan_modChan_self] at hpu
    obtain ⟨pv, -, rfl⟩ := Option.map_eq_some_iff.mp hpu
    rfl
  have hover : (u.recycleOver d).2.chan c = s.chan c := (chan_recycleOver_ne hdc howned).trans hu
  have hcut : s.abortPulse d =
      if ((s.chan d).pulse.map (·.recycleLength)).getD 0 = 0 then (u.recycleOver d).2.doAll false (u.recycleOver d).1
      else u := rfl
  rw [hcut]
  split
  · rw [← hover] at hc ⊢
    exact (spared_doAll (p := .p0) false _).coil c hc
  · rw [hu]
    exact ⟨rfl, rfl⟩

theorem coil_portResetPulse_ne (hdc : d ≠ c) (hc : (s.chan c).phase ≠ .idle) :
    ((s.portResetPulse p d).chan c).phase = (s.chan c).phase
      ∧ ((s.portResetPulse p d).chan c).pulse = (s.chan c).pulse := by
  unfold State.portResetPulse
  split
  · split
    · exact coil_abortPulse_ne hdc hc
    · rw [State.modPulse, State.chan_modChan_ne _ hdc]
      exact ⟨rfl, rfl⟩
  · exact ⟨rfl, rfl⟩

/-- A recycle without an owner runs on while the port's pulses end. -/
theorem rests_portResetPulses {pu : Pulse} (howned : pu.owned = false) (l : List Chan) :
    ∀ s : State, s.Rests c pu → (l.foldl (State.portResetPulse p) s).Rests c pu := by
  induction l with
  | nil => exact fun _ hs => hs
  | cons d l ih =>
    intro s hs
    refine ih _ ?_
    obtain ⟨hphase, hpulse⟩ := hs
    by_cases hdc : d = c
    · subst hdc
      have hother : (s.chan d).pulse.any (·.ofPort p) = false := by
        rw [hpulse]
        exact Bool.eq_false_iff.mpr fun h => absurd (Pulse.ofPort_iff.mp h).1 (by simp [howned])
      rw [portResetPulse_of_other hother]
      exact ⟨hphase, hpulse⟩
    · obtain ⟨hphase', hpulse'⟩ := coil_portResetPulse_ne (p := p) hdc (by rw [hphase]; decide)
      exact ⟨hphase'.trans hphase, hpulse'.trans hpulse⟩

/-- A pulse of the port, as its own channel's part in the reset leaves it. -/
theorem rests_of_portResetPulses {pu pu' : Pulse} {phase : Phase} {now : Nat} (hidle : phase ≠ .idle)
    (howned : pu'.owned = false)
    (hturn : ∀ t : State, t.now = now → (t.chan c).phase = phase → (t.chan c).pulse = some pu →
      (t.portResetPulse p c).Rests c pu') :
    ∀ (l : List Chan) (s : State), c ∈ l → s.now = now → (s.chan c).phase = phase → (s.chan c).pulse = some pu →
      (l.foldl (State.portResetPulse p) s).Rests c pu' := by
  intro l
  induction l with
  | nil => exact fun _ hc => absurd hc List.not_mem_nil
  | cons d l ih =>
    intro s hc hnow hphase hpulse
    by_cases hdc : d = c
    · subst hdc
      exact rests_portResetPulses howned l _ (hturn s hnow hphase hpulse)
    · obtain ⟨hphase', hpulse'⟩ := coil_portResetPulse_ne (p := p) hdc (hphase ▸ hidle)
      exact ih _ (List.mem_of_ne_of_mem (fun h => hdc h.symm) hc) ((kept_now now).portResetPulse p d hnow)
        (hphase'.trans hphase) (hpulse'.trans hpulse)

end Pulses

end Sys2Proof.Machine

/-!
The reset of a port: its pulses end, its entries leave their queues, and what is left of it is discarded (R92, R171).
-/

namespace Sys2Proof.Machine

/-! ## The parts of a port reset -/

/-- The state in which the port's pulses have ended (R36, R92). -/
def State.pulsesEnded (s : State) (p : Port) : State := (allFin 24).foldl (State.portResetPulse p) s

/-- The state in which the port's entries have left the channel queues and the admission list (R36, R72). -/
def State.entriesLeft (s : State) (p : Port) : State := (s.entriesOf p).foldl State.portResetEntry s

/-- The state in which the port's entries, ring and records are discarded (R92, R108, R117, R162). -/
def State.discarded (s : State) (p : Port) : State :=
  { s with table := s.table.filter fun e => e.port != p }.modPort p PortState.portReset

theorem portReset_eq (s : State) (p : Port) :
    s.portReset p =
      (((s.pulsesEnded p).entriesLeft p).discarded p).examine.doAll true [.offer (allFin 24)] := rfl

theorem mem_allFin {n : Nat} (i : Fin n) : i ∈ allFin n := List.mem_ofFn.mpr ⟨i, rfl⟩

section Discarded

variable {s : State} {p : Port}

@[simp] theorem chan_discarded (s : State) (p : Port) (c : Chan) : (s.discarded p).chan c = s.chan c := rfl
@[simp] theorem arbiter_discarded (s : State) (p : Port) : (s.discarded p).arbiter = s.arbiter := rfl

theorem port_discarded (s : State) (p : Port) : (s.discarded p).port p = (s.port p).portReset :=
  State.port_modPort_self ..

theorem cleared_discarded (s : State) (p : Port) : (s.discarded p).Cleared p :=
  ⟨by rw [port_discarded]; rfl, fun _ he => bne_iff_ne.mp (List.mem_filter.mp he).2⟩

/-- What follows the discard spares the port. -/
theorem spared_portReset (s : State) (p : Port) :
    (s.portReset p).Spared p (((s.pulsesEnded p).entriesLeft p).discarded p) :=
  (spared_doAll true _).trans spared_examine

theorem entriesOf_portReset (s : State) (p : Port) : (s.portReset p).entriesOf p = [] :=
  List.filter_eq_nil_iff.mpr fun e he =>
    by simpa using (spared_portReset s p).entries (cleared_discarded _ p) e he

end Discarded

/-! ## The port's record -/

section Record

variable {s : State} {p : Port}

/-- The order pipeline moves nothing that a port reset keeps, but the ATTN line, which the event decides anew. -/
theorem CoreStep.portReset {a b : PortState} (h : CoreStep a b) (mode : Mode) :
    b.portReset.decideLine mode = a.portReset.decideLine mode := by
  obtain ⟨-, -, hcomparator, hswitches, hpriorities, hthreshold, hlowMark, -, -⟩ := h
  simp only [PortState.portReset, PortState.decideLine, lineAsserted, hcomparator, hswitches, hpriorities, hthreshold,
    hlowMark]
  rfl

theorem kept_portRecord (p : Port) (mode : Mode) (v : PortState) :
    KeptCore fun s => (s.port p).portReset.decideLine mode = v where
  ports _ _ hstep h := ((hstep p).portReset mode).trans h
  table _ _ _ h := h
  coil _ _ _ _ _ _ _ h := h
  note _ _ _ _ _ h := h
  heat _ _ h := h
  list _ _ _ h := h
  reflexes _ _ h := h
  lamps _ _ _ h := h
  free _ _ h := h

theorem kept_control (v : Control) : KeptPorts fun s => s.control = v where
  ports _ _ _ h := h
  port _ _ _ h := h
  table _ _ _ h := h
  coil _ _ _ _ _ _ _ h := h
  note _ _ _ _ _ h := h
  heat _ _ h := h
  list _ _ _ h := h
  reflexes _ _ h := h
  lamps _ _ _ h := h
  free _ _ h := h

theorem KeptCore.entriesLeft {P : State → Prop} (K : KeptCore P) (p : Port) (hs : P s) : P (s.entriesLeft p) :=
  KeptCore.foldl (fun _ _ h => K.leaveQueue false _ _ h) _ _ hs

theorem KeptCore.pulsesEnded {P : State → Prop} (K : KeptCore P) (p : Port) (hs : P s) : P (s.pulsesEnded p) :=
  KeptCore.foldl (fun _ c h => K.portResetPulse p c h) _ _ hs

/-- The port's record after its reset, with its line decided (R7, R92, R108, R117, R162, R171). -/
theorem port_portReset (s : State) (p : Port) :
    (s.portReset p).decideLines.port p = (s.port p).portReset.decideLine s.control.mode := by
  have hcontrol : (s.portReset p).control = s.control := (kept_control s.control).portReset p rfl
  have hkept := (kept_portRecord p s.control.mode _).entriesLeft p
    ((kept_portRecord p s.control.mode _).pulsesEnded p (s := s) rfl)
  rw [port_decideLines, hcontrol, (spared_portReset s p).record (cleared_discarded _ p), port_discarded]
  exact hkept

end Record

/-! ## The port's pulses -/

section Coil

variable {s : State} {c : Chan} {p : Port}

theorem State.Spared.rests {t : State} {pu : Pulse} (h : t.Spared p s) (hs : s.Rests c pu) : t.Rests c pu := by
  obtain ⟨hphase, hpulse⟩ := hs
  obtain ⟨hphase', hpulse'⟩ := h.coil c (by rw [hphase]; decide)
  exact ⟨hphase'.trans hphase, hpulse'.trans hpulse⟩

theorem spared_entriesLeft (s : State) (p : Port) : (s.entriesLeft p).Spared p s := by
  unfold State.entriesLeft
  generalize s.entriesOf p = l
  induction l generalizing s with
  | nil => exact .refl s
  | cons e l ih => exact (ih _).trans (spared_leaveQueue false _ _)

/-- What follows the end of the port's pulses leaves a recycle as it is. -/
theorem rests_portReset {pu : Pulse} (h : (s.pulsesEnded p).Rests c pu) : (s.portReset p).Rests c pu := by
  have hleft : (((s.pulsesEnded p).entriesLeft p).discarded p).Rests c pu := by
    rw [State.Rests, chan_discarded]
    exact (spared_entriesLeft _ p).rests h
  exact (spared_portReset s p).rests hleft

/-- A recycle of the port's loses its owner (R92). -/
theorem rests_of_recycle {pu : Pulse} (hphase : (s.chan c).phase = .recycle) (hpu : (s.chan c).pulse = some pu)
    (hport : pu.ofPort p = true) : (s.portReset p).Rests c { pu with owned := false } := by
  refine rests_portReset (rests_of_portResetPulses (phase := .recycle) (by decide) rfl
    (fun t _ hphase hpu => ?_) (allFin 24) s (mem_allFin c) rfl hphase hpu)
  have hany : (t.chan c).pulse.any (·.ofPort p) = true := by rw [hpu]; exact hport
  rw [State.portResetPulse, if_pos hany, if_neg (by rw [hphase]; decide), State.modPulse, State.Rests,
    State.chan_modChan_self, hpu]
  exact ⟨hphase, rfl⟩

/-- A live pulse of the port's ends and recycles without an owner (R36, R92). -/
theorem rests_of_live {pu : Pulse} (hlive : (s.chan c).phase.isLive = true) (hpu : (s.chan c).pulse = some pu)
    (hport : pu.ofPort p = true) (hlength : 0 < pu.recycleLength) : (s.portReset p).Rests c (pu.unowned s.now) := by
  have hidle : (s.chan c).phase ≠ .idle := by
    intro h
    rw [h] at hlive
    cases hlive
  refine rests_portReset (rests_of_portResetPulses hidle rfl
    (fun t hnow hphase hpu => ?_) (allFin 24) s (mem_allFin c) rfl rfl hpu)
  have hany : (t.chan c).pulse.any (·.ofPort p) = true := by rw [hpu]; exact hport
  rw [State.portResetPulse, if_pos hany, if_pos (by rw [hphase]; exact hlive), State.Rests, chan_abortPulse hpu hlength,
    hnow]
  exact ⟨rfl, rfl⟩

end Coil

/-! ## The port's places in the queues and in the list -/

/-- The entries of the port say where its members stand in the channel queues. -/
def State.Placed (s : State) (p : Port) : Prop :=
  ∀ c, ∀ q ∈ (s.chan c).queue, ∀ tag, q.owner = .order p tag →
    ∃ e ∈ s.table, e.port = p ∧ e.order.tag = tag ∧ e.order.channel = c

/-- A state that differs from another in pulses and in what owners are told. -/
structure State.SamePlaces (t s : State) : Prop where
  list : t.arbiter.list = s.arbiter.list
  queue : ∀ c, (t.chan c).queue = (s.chan c).queue
  idle : ∀ c, (s.chan c).phase = .idle → (t.chan c).phase = .idle
  entries : ∀ e ∈ s.table, ∃ g ∈ t.table, g.port = e.port ∧ g.order = e.order

section SamePlaces

variable {r s t : State} {d : Chan} {p : Port}

theorem State.SamePlaces.refl (s : State) : s.SamePlaces s :=
  ⟨rfl, fun _ => rfl, fun _ => id, fun e he => ⟨e, he, rfl, rfl⟩⟩

theorem State.SamePlaces.trans (h : t.SamePlaces s) (h' : s.SamePlaces r) : t.SamePlaces r where
  list := h.list.trans h'.list
  queue c := (h.queue c).trans (h'.queue c)
  idle c hc := h.idle c (h'.idle c hc)
  entries e he := by
    obtain ⟨f, hf, hport, horder⟩ := h'.entries e he
    obtain ⟨g, hg, hport', horder'⟩ := h.entries f hf
    exact ⟨g, hg, hport'.trans hport, horder'.trans horder⟩

theorem State.SamePlaces.fronts {c : Chan} (h : t.SamePlaces s) (hs : s.Fronts c) : t.Fronts c := by
  intro m hm hc
  have hfront := hs m (h.list ▸ hm) hc
  simp only [Channel.isTestingFront, Bool.and_eq_true, beq_iff_eq] at hfront ⊢
  obtain ⟨hidle, hhead⟩ := hfront
  exact ⟨h.idle _ hidle, by rw [h.queue]; exact hhead⟩

theorem State.SamePlaces.placed (h : t.SamePlaces s) (hs : s.Placed p) : t.Placed p := by
  intro c q hq tag howner
  obtain ⟨e, he, hport, htag, hchannel⟩ := hs c q (h.queue c ▸ hq) tag howner
  obtain ⟨g, hg, hport', horder⟩ := h.entries e he
  exact ⟨g, hg, hport'.trans hport, horder ▸ htag, horder ▸ hchannel⟩

/-- A cut of a channel that is not IDLE moves no member. -/
theorem State.CutAt.samePlaces (h : t.CutAt d s) (hidle : (s.chan d).phase ≠ .idle)
    (hentries : ∀ e ∈ s.table, ∃ g ∈ t.table, g.port = e.port ∧ g.order = e.order) : t.SamePlaces s where
  list := h.list
  queue c := by
    by_cases hdc : d = c
    · subst hdc; exact h.queue
    · rw [h.others c hdc]
  idle c hc := by
    have hdc : d ≠ c := by rintro rfl; exact hidle hc
    rw [h.others c hdc]
    exact hc
  entries := hentries

theorem entries_modEntry (s : State) (q : Port) (tag : Byte) {f : Entry → Entry}
    (hf : ∀ e, (f e).port = e.port ∧ (f e).order = e.order) :
    ∀ e ∈ s.table, ∃ g ∈ (s.modEntry q tag f).table, g.port = e.port ∧ g.order = e.order := by
  intro e he
  refine ⟨_, List.mem_map.mpr ⟨e, he, rfl⟩, ?_⟩
  split
  · exact hf e
  · exact ⟨rfl, rfl⟩

theorem entries_tellAbort (s : State) (d : Chan) :
    ∀ e ∈ s.table, ∃ g ∈ (s.tellAbort d).table, g.port = e.port ∧ g.order = e.order := by
  unfold State.tellAbort
  split
  · exact entries_modEntry s _ _ fun _ => ⟨rfl, rfl⟩
  · exact fun e he => ⟨e, he, rfl, rfl⟩
  · exact fun e he => ⟨e, he, rfl, rfl⟩

theorem samePlaces_modPulse (s : State) (d : Chan) (f : Pulse → Pulse) : (s.modPulse d f).SamePlaces s where
  list := rfl
  queue c := by
    rw [State.modPulse, State.chan_modChan]
    split
    · rename_i hc; rw [hc]
    · rfl
  idle c hc := by
    rw [State.modPulse, State.chan_modChan]
    split
    · rename_i hdc; rw [hdc]; exact hc
    · exact hc
  entries e he := ⟨e, he, rfl, rfl⟩

theorem samePlaces_portResetPulse (hs : s.coherent) (p : Port) (d : Chan) : (s.portResetPulse p d).SamePlaces s := by
  unfold State.portResetPulse
  split
  · split
    · rename_i hlive
      obtain ⟨pu, hpu, -⟩ := pulse_of_live hs hlive
      obtain ⟨hcut, -, htable, -⟩ := abortPulse_spec hs hlive hpu
      refine hcut.samePlaces (fun h => ?_) (by rw [htable]; exact entries_tellAbort s d)
      rw [h] at hlive
      cases hlive
    · exact samePlaces_modPulse s d _
  · exact .refl s

theorem samePlaces_pulsesEnded (hs : s.coherent) (p : Port) : (s.pulsesEnded p).SamePlaces s := by
  unfold State.pulsesEnded
  generalize allFin 24 = l
  induction l generalizing s with
  | nil => exact .refl s
  | cons d l ih => exact (ih (kept_coherent.portResetPulse p d hs)).trans (samePlaces_portResetPulse hs p d)

end SamePlaces

end Sys2Proof.Machine

/-!
What a port reset leaves in the queues, which member it offers, and the obligation about the resets (R34, R72, R92,
R171, R172).
-/

namespace Sys2Proof.Machine

/-! ## A member that leaves with nothing examined -/

section Leaves

variable {s : State} {c : Chan} {o : Owner} {p : Port}

theorem chan_frontGone_ne {d : Chan} (h : c ≠ d) (behind : List QueueMember) :
    (s.frontGone c behind).chan d = s.chan d :=
  State.chan_modChan_ne { s with
    arbiter := { s.arbiter with list := s.arbiter.list.filter fun m => m.channel ≠ c } } h _

/-- A testing front leaves its queue and the list (R34, R61). -/
theorem leaveQueue_frontGone {q : QueueMember} {behind : List QueueMember} (hphase : (s.chan c).phase = .idle)
    (hqueue : (s.chan c).queue = q :: behind) (hothers : ∀ x ∈ behind, x.owner ≠ q.owner) :
    s.leaveQueue false c q.owner = s.frontGone c behind := by
  have hfront : (s.chan c).isTestingFront q.owner = true := by simp [Channel.isTestingFront, hphase, hqueue]
  have hlist : s.arbiter.list.filter (fun m => m.channel != c) = s.arbiter.list.filter fun m => m.channel ≠ c :=
    List.filter_congr fun m _ => by rw [Bool.eq_iff_iff]; simp
  have hfilter : (s.chan c).queue.filter (fun x => x.owner != q.owner) = behind := by
    rw [hqueue]
    exact filter_owner_of_split (before := []) rfl hothers
  have hunlisted : (s.modChan c (·.frontLeft q.owner)).unlisted c =
      { s with arbiter := { s.arbiter with list := s.arbiter.list.filter fun m => m.channel != c } }.modChan c
        (·.frontLeft q.owner) := rfl
  rw [leaveQueue_false, if_pos hfront, hunlisted, hlist]
  exact State.modChan_congr (congrArg (fun l => { s.chan c with queue := l, front := .channelWait }) hfilter)

/-! ## The port's entries leave -/

theorem portResetEntries_spec (l : List Entry) :
    ∀ s : State, (∀ c, s.Fronts c) →
      (∀ c, (l.foldl State.portResetEntry s).Fronts c)
        ∧ (∀ c, ∀ q ∈ ((l.foldl State.portResetEntry s).chan c).queue, q ∈ (s.chan c).queue)
        ∧ ∀ e ∈ l, ∀ q ∈ ((l.foldl State.portResetEntry s).chan e.order.channel).queue,
          q.owner ≠ .order e.port e.order.tag := by
  induction l with
  | nil => exact fun s hs => ⟨hs, fun _ _ => id, fun _ he => absurd he List.not_mem_nil⟩
  | cons e l ih =>
    intro s hs
    obtain ⟨hfronts, hqueues, hgone⟩ := ih (s.portResetEntry e) fun c => fronts_leaveQueue (hs c) _ _
    have hmembers : ∀ c, ∀ q ∈ ((s.portResetEntry e).chan c).queue, q ∈ (s.chan c).queue :=
      (members_leaveQueue s _ _).1
    have hleft : (s.portResetEntry e).Absent e.order.channel (.order e.port e.order.tag) :=
      absent_leaveQueue (hs _) _
    rw [List.foldl_cons]
    refine ⟨hfronts, fun c q hq => hmembers c q (hqueues c q hq), fun g hg q hq => ?_⟩
    rcases List.mem_cons.mp hg with rfl | hg
    · exact hleft.1 q (hqueues _ q hq)
    · exact hgone g hg q hq

/-- No member of the port is left in a queue or in the list (R72, R92). -/
theorem unheld_entriesLeft (hfronts : ∀ c, s.Fronts c) (hplaced : s.Placed p) : (s.entriesLeft p).Unheld p := by
  obtain ⟨hfronts', hqueues, hgone⟩ := portResetEntries_spec (s.entriesOf p) s hfronts
  rw [State.entriesLeft]
  have hnone : ∀ c, ∀ q ∈ (((s.entriesOf p).foldl State.portResetEntry s).chan c).queue, ∀ tag,
      q.owner ≠ .order p tag := by
    intro c q hq tag howner
    obtain ⟨e, he, rfl, rfl, rfl⟩ := hplaced c q (hqueues c q hq) tag howner
    exact hgone e (List.mem_filter.mpr ⟨he, beq_self_eq_true _⟩) q hq howner
  refine ⟨hnone, fun m hm tag howner => ?_⟩
  have hfront := hfronts' m.channel m hm rfl
  rw [isTestingFront_of_absent fun q hq => howner ▸ hnone m.channel q hq tag] at hfront
  cases hfront

theorem unheld_portReset (hs : s.coherent) (hfronts : ∀ c, s.Fronts c) (hplaced : s.Placed p) :
    (s.portReset p).Unheld p := by
  have hsame := samePlaces_pulsesEnded hs p
  have hleft : ((s.pulsesEnded p).entriesLeft p).Unheld p :=
    unheld_entriesLeft (fun c => hsame.fronts (hfronts c)) (hsame.placed hplaced)
  have hdiscarded : (((s.pulsesEnded p).entriesLeft p).discarded p).Unheld p := by
    rw [State.Unheld, arbiter_discarded]
    simp only [chan_discarded]
    exact hleft
  exact (spared_portReset s p).unheld (cleared_discarded _ p) hdiscarded

/-! ## The next front -/

theorem pulsesEnded_of_none (h : ∀ c, (s.chan c).pulse.any (·.ofPort p) = false) : s.pulsesEnded p = s := by
  unfold State.pulsesEnded
  generalize allFin 24 = l
  induction l with
  | nil => rfl
  | cons c l ih =>
    rw [List.foldl_cons, portResetPulse_of_other (h c)]
    exact ih

/-- Entries of the port with no member in a queue leave nothing. -/
theorem portResetEntries_of_absent (l : List Entry) (hl : ∀ e ∈ l, e.port = p)
    (habsent : ∀ c, ∀ q ∈ (s.chan c).queue, ∀ tag, q.owner ≠ .order p tag) : l.foldl State.portResetEntry s = s := by
  induction l with
  | nil => rfl
  | cons e l ih =>
    have hleave : s.portResetEntry e = s :=
      State.leaveQueue_of_absent (fun q hq => hl e List.mem_cons_self ▸ habsent _ q hq _) false
    rw [List.foldl_cons, hleave]
    exact ih fun g hg => hl g (List.mem_cons_of_mem _ hg)

section NextFront

variable {tag : Byte} {q : QueueMember} {behind : List QueueMember} (hqueue : (s.chan c).queue = q :: behind)
  (halone : ∀ d, ∀ y ∈ (s.chan d).queue, ∀ t, y.owner = .order p t → d = c ∧ y = q) (hbehind : q ∉ behind)
include hqueue halone hbehind

theorem owner_ne_of_behind : ∀ y ∈ behind, ∀ t, y.owner ≠ .order p t := by
  intro y hy t ht
  obtain ⟨-, rfl⟩ := halone c y (hqueue ▸ List.mem_cons_of_mem _ hy) t ht
  exact hbehind hy

theorem absent_frontGone : ∀ d, ∀ y ∈ ((s.frontGone c behind).chan d).queue, ∀ t, y.owner ≠ .order p t := by
  intro d y hy t ht
  by_cases hd : c = d
  · subst hd
    rw [chan_frontGone] at hy
    exact owner_ne_of_behind hqueue halone hbehind y hy t ht
  · rw [chan_frontGone_ne hd] at hy
    exact hd (halone d y hy t ht).1.symm

/-- Of the port's entries the one in front of a queue leaves it. -/
theorem portResetEntries_of_front (hphase : (s.chan c).phase = .idle) (howner : q.owner = .order p tag)
    (l : List Entry) (hl : ∀ e ∈ l, e.port = p)
    (hmem : ∃ e ∈ l, e.order.channel = c ∧ e.order.tag = tag) :
    l.foldl State.portResetEntry s = s.frontGone c behind := by
  induction l with
  | nil => exact absurd hmem.choose_spec.1 List.not_mem_nil
  | cons g l ih =>
    have hgport : g.port = p := hl g List.mem_cons_self
    have hlport : ∀ e ∈ l, e.port = p := fun e he => hl e (List.mem_cons_of_mem _ he)
    rw [List.foldl_cons, State.portResetEntry]
    by_cases hg : g.order.channel = c ∧ g.order.tag = tag
    · obtain ⟨rfl, rfl⟩ := hg
      have hothers : ∀ y ∈ behind, y.owner ≠ q.owner := fun y hy =>
        howner ▸ owner_ne_of_behind hqueue halone hbehind y hy _
      rw [hgport, ← howner, leaveQueue_frontGone hphase hqueue hothers]
      exact portResetEntries_of_absent l hlport (absent_frontGone hqueue halone hbehind)
    · have habsent : ∀ y ∈ (s.chan g.order.channel).queue, y.owner ≠ .order g.port g.order.tag := by
        intro y hy hyowner
        rw [hgport] at hyowner
        obtain ⟨hc, rfl⟩ := halone _ y hy _ hyowner
        exact hg ⟨hc, (Owner.order.inj (hyowner.symm.trans howner)).2⟩
      rw [State.leaveQueue_of_absent habsent]
      obtain ⟨e, he, hhit⟩ := hmem
      rcases List.mem_cons.mp he with rfl | he
      · exact absurd hhit hg
      · exact ih hlport ⟨e, he, hhit⟩

end NextFront

/-! ## The one channel that waits for an offer -/

theorem nextOffer_of_sole {cs : List Chan} (hmem : c ∈ cs) (hwaits : s.awaitsOffer c = true)
    (hothers : ∀ d, d ≠ c → s.awaitsOffer d = false) : s.nextOffer cs = some c := by
  have hsole : ∀ d ∈ cs.filter s.awaitsOffer, d = c := fun d hd => by
    by_contra hne
    rw [List.mem_filter, hothers d hne] at hd
    cases hd.2
  have hfind : ∀ (test : Chan → Bool) (d : Chan), (cs.filter s.awaitsOffer).find? test = some d → d = c :=
    fun test d h => hsole d (List.mem_of_find?_eq_some h)
  have hhead : (cs.filter s.awaitsOffer).head? = some c := by
    cases hl : cs.filter s.awaitsOffer with
    | nil => exact absurd (List.mem_filter.mpr ⟨hmem, hwaits⟩) (hl ▸ List.not_mem_nil)
    | cons d l => exact congrArg some (hsole d (hl ▸ List.mem_cons_self))
  simp only [State.nextOffer, hhead]
  cases h1 : (cs.filter s.awaitsOffer).find? fun c => (allFin 16).any fun x => s.refuses c (.reflex x) with
  | some x => rw [hfind _ x h1]; rfl
  | none =>
    cases h2 : s.table.findSome? fun e =>
        (cs.filter s.awaitsOffer).find? fun c => s.refuses c (.order e.port e.order.tag) with
    | some x =>
      obtain ⟨e, -, he⟩ := List.exists_of_findSome?_eq_some h2
      rw [hfind _ x he]; rfl
    | none => rfl

/-- Of all channels one waits for its offer, and its front kicks. -/
theorem doAll_offers_kick {q : QueueMember} {rest : List QueueMember} (hphase : (s.chan c).phase = .idle)
    (hfront : (s.chan c).front = .channelWait) (hqueue : (s.chan c).queue = q :: rest)
    (hothers : ∀ d, d ≠ c → s.awaitsOffer d = false) (hlist : s.arbiter.list = []) (hrail : s.control.rail = .on)
    (hroom : s.arbiter.units + (s.chan c).profile.kickDraw ≤ s.arbiter.limit q.owner)
    (hfits : (s.chan c).profile.kickFits ((s.chan c).heatNow s.now)
      ((s.chan c).profile.kickLength (s.kickShape q.owner).fraction) = true) {cs : List Chan} (hc : c ∈ cs) :
    s.doAll true [.offer cs] = s.kicked c q.owner := by
  have hsize : s.sizeOk c q.owner = true := decide_eq_true ((Nat.le_add_left _ _).trans hroom)
  have hchan : (s.updateHeat c).chan c = (s.chan c).updateHeat s.now := State.chan_modChan_self ..
  have hkicks : s.kickTest true c = s.kicked c q.owner := by
    rw [kickTest_of_fits hqueue hfits,
      join_grants (s := s.updateHeat c) (by rw [hchan]; exact hphase) hlist hrail (by rw [hchan]; exact hroom),
      State.kicked_updateHeat]
  have hrun : Work.run true (.offer cs) s = ⟨[.offer (cs.filter (· != c))], [], s.kicked c q.owner⟩ := by
    simp only [Work.run, offer, nextOffer_of_sole hc (awaitsOffer_of_front hphase hfront hqueue) hothers, hqueue, hsize,
      if_true, hkicks]
  have hnone : ∀ d ∈ cs.filter (· != c), (s.kicked c q.owner).awaitsOffer d = false := fun d hd => by
    have hd' : d ≠ c := bne_iff_ne.mp (List.mem_filter.mp hd).2
    rw [State.awaitsOffer, kicked_chan_ne s hd']
    exact hothers d hd'
  rw [doAll_cons, hrun]
  exact (doAll_offer_of_none hnone true _).trans (doAll_nil ..)

end Leaves

/-- An owner that is no order of the port keeps its entry, so the shape of its kick. -/
theorem kickShape_discarded (s : State) {p : Port} {o : Owner} (ho : ∀ tag, o ≠ .order p tag) :
    (s.discarded p).kickShape o = s.kickShape o := by
  cases o with
  | reflex x => rfl
  | order q tag =>
    have hq : q ≠ p := fun h => ho tag (h ▸ rfl)
    have hentry : (s.discarded p).entry q tag = s.entry q tag := by
      show (s.table.filter fun e => e.port != p).find? (fun e => e.is q tag) = s.table.find? fun e => e.is q tag
      rw [List.find?_filter]
      refine congrArg (s.table.find? ·) (funext fun e => ?_)
      by_cases his : e.is q tag = true
      · have hport : e.port ≠ p := (Entry.is_iff.mp his).1 ▸ hq
        simp [his, hport]
      · simp [his]
    simp only [State.kickShape, hentry]

end Sys2Proof.Machine

/-!
The obligation about the resets by command (R7, R36, R72, R92, R108, R117, R162, R171, R172).
-/

namespace Sys2Proof.Machine

section PortReset

variable {s : State} {p : Port}

/-! ## The next front -/

/-- With a member of the port's alone in front of its queue, the member behind it kicks at the reset (R34, R62). -/
theorem portReset_kicks {c : Chan} {e : Entry} {q x : QueueMember} {rest : List QueueMember}
    (hpulses : ∀ d, (s.chan d).pulse.any (·.ofPort p) = false) (he : e ∈ s.table) (hport : e.port = p)
    (hchannel : e.order.channel = c) (hphase : (s.chan c).phase = .idle) (hqueue : (s.chan c).queue = q :: x :: rest)
    (howner : q.owner = .order p e.order.tag)
    (halone : ∀ d, ∀ y ∈ (s.chan d).queue, ∀ tag, y.owner = .order p tag → d = c ∧ y = q) (hx : x ≠ q)
    (hrest : q ∉ rest)
    (hquiet : ∀ d, d ≠ c → (s.chan d).phase ≠ .idle ∨ (s.chan d).queue = [] ∨ (s.chan d).front ≠ .channelWait)
    (hlist : ∀ m ∈ s.arbiter.list, m.channel = c) (hrail : s.control.rail = .on)
    (hroom : s.arbiter.units + (s.chan c).profile.kickDraw ≤ s.arbiter.limit x.owner)
    (hfits : (s.chan c).profile.kickFits ((s.chan c).heatNow s.now)
      ((s.chan c).profile.kickLength (s.kickShape x.owner).fraction) = true) :
    ((s.portReset p).chan c).phase = .kick
      ∧ ((s.portReset p).chan c).pulse.map (fun pu => (pu.owner, pu.start)) = some (x.owner, s.now) := by
  have hbehind : q ∉ x :: rest := fun h => (List.mem_cons.mp h).elim (fun h => hx h.symm) hrest
  have hleft : s.entriesLeft p = s.frontGone c (x :: rest) :=
    portResetEntries_of_front hqueue halone hbehind hphase howner (s.entriesOf p)
      (fun g hg => beq_iff_eq.mp (List.mem_filter.mp hg).2)
      ⟨e, List.mem_filter.mpr ⟨he, beq_iff_eq.mpr hport⟩, hchannel, rfl⟩
  let u := (s.frontGone c (x :: rest)).discarded p
  have hself : u.chan c = { s.chan c with queue := x :: rest, front := .channelWait } :=
    chan_frontGone s c (x :: rest)
  have hothers : ∀ d, d ≠ c → u.awaitsOffer d = false := by
    intro d hd
    have hchan : u.chan d = s.chan d := chan_frontGone_ne hd.symm _
    rw [State.awaitsOffer, hchan]
    rcases hquiet d hd with h | h | h <;> simp [h]
  have hempty : u.arbiter.list = [] :=
    List.filter_eq_nil_iff.mpr fun m hm => by simpa using hlist m hm
  have hshape : u.kickShape x.owner = s.kickShape x.owner :=
    kickShape_discarded (s.frontGone c (x :: rest))
      (owner_ne_of_behind hqueue halone hbehind x List.mem_cons_self)
  have hkicks : s.portReset p = u.kicked c x.owner := by
    rw [portReset_eq, pulsesEnded_of_none hpulses, hleft, examine_of_nil hempty]
    refine doAll_offers_kick (s := u) (rest := rest) ?_ ?_ ?_ hothers hempty hrail ?_ ?_ (mem_allFin c)
    · rw [hself]; exact hphase
    · rw [hself]
    · rw [hself]
    · rw [hself]; exact hroom
    · rw [hself, hshape]; exact hfits
  rw [hkicks, kicked_chan_self]
  exact ⟨rfl, rfl⟩

/-! ## A part with nothing of the port -/

/-- With no order of the port in the part and no front that waits, the reset is of the port's record alone. -/
theorem portReset_of_quiet (hentries : s.entriesOf p = []) (hlist : s.arbiter.list = [])
    (hqueue : ∀ c, (s.chan c).queue = []) (hpulses : ∀ c, (s.chan c).pulse.any (·.ofPort p) = false) :
    s.portReset p = s.modPort p PortState.portReset := by
  have htable : (s.table.filter fun e => e.port != p) = s.table :=
    List.filter_eq_self.mpr fun e he => by simpa using List.filter_eq_nil_iff.mp hentries e he
  have hdiscarded : s.discarded p = s.modPort p PortState.portReset := by rw [State.discarded, htable]
  have hnone : ∀ c ∈ allFin 24, (s.modPort p PortState.portReset).awaitsOffer c = false := fun c _ =>
    awaitsOffer_of_empty (hqueue c)
  rw [portReset_eq, pulsesEnded_of_none hpulses, State.entriesLeft, hentries, List.foldl_nil, hdiscarded,
    examine_of_nil (s := s.modPort p PortState.portReset) hlist, doAll_offer_of_none hnone, doAll_nil]

theorem entriesOf_decideLines (s : State) (p : Port) : s.decideLines.entriesOf p = s.entriesOf p := rfl

/-- The shape of a kick is no matter of a link. -/
theorem kickShape_modLink (s : State) (p : Port) (f : Link → Link) (o : Owner) :
    (s.modLink p f).kickShape o = s.kickShape o := by cases o <;> rfl

/-! ## The answers -/

theorem answerTableReset_decided (s : State) (p : Port) :
    answerTableReset p s =
      if p = .p1 then .refuse .notPermitted s else ⟨.ok, [], s.modLink p fun l => { l with awaiting := some .table }⟩ :=
  rfl

end PortReset

/-- Settles O15: both resets are answered by their rows; a table reset is RESETN's fall at the level that stands; a port
reset ends the port's pulses (`rests_of_live`, `rests_of_recycle`), empties the port's places (`unheld_portReset`) and
offers the fronts behind them (`portReset_kicks`). -/
theorem resetsByCommand : Obligations.ResetsByCommand := by
  refine ⟨fun s p hs => ⟨exec_row_of_ready hs .portReset, fun hp => ?_, fun hp => ?_⟩,
    fun s p reply hpowered hhigh hsending hawaiting => ?_, fun s p reply hpowered hsending hawaiting => ?_,
    fun s p reply hpowered hsending hawaiting hentries hlist hquiet => ?_⟩
  · have hrow := exec_row_of_ready hs .tableReset
    simp only [Command.answer, answerTableReset_decided, if_pos hp] at hrow
    exact hrow
  · have hrow := exec_row_of_ready hs .tableReset
    simp only [Command.answer, answerTableReset_decided, if_neg hp] at hrow
    exact hrow
  · exact ⟨s.tableReset, exec_replyEnd_tableReset hpowered hsending hawaiting, exec_resetnFall hpowered hhigh⟩
  · let s1 := s.modLink p fun l => { l with sending := none }
    have hrecord : (s1.port p).portReset = (s.port p).portReset := by
      rw [show s1.port p = _ from State.port_modPort_self ..]
      rfl
    refine ⟨(s1.portReset p).decideLines, exec_replyEnd_portReset hpowered hsending hawaiting,
      (entriesOf_decideLines _ p).trans (entriesOf_portReset s1 p), ?_, fun c pu hpu hport => ⟨fun hphase => ?_, fun hlive hlength => ?_⟩,
      fun hcoherent hlists hplaced => ?_, ?_⟩
    · rw [port_portReset, hrecord]
      rfl
    · rw [State.chan_decideLines]
      exact rests_of_recycle (s := s1) hphase hpu hport
    · obtain ⟨hphase, hpulse⟩ := rests_of_live (s := s1) hlive hpu hport hlength
      have hphase' := (congrArg Channel.phase (State.chan_decideLines _ c)).trans hphase
      rw [State.chan_decideLines]
      exact ⟨hphase, gateSixteenths_of_recycle hphase', hpulse.trans (congrArg some (pu.stopped_unowned _))⟩
    · simp only [State.chan_decideLines, State.decideLines_arbiter]
      exact unheld_portReset (s := s1) hcoherent (fun c m hm hc => hc ▸ hlists m hm) hplaced
    · intro c e q x rest hpulses he hport hchannel hphase hqueue howner halone hx hrest hothers hlist hrail hroom hfits
      rw [State.chan_decideLines]
      exact portReset_kicks (s := s1) hpulses he hport hchannel hphase hqueue howner halone hx hrest hothers hlist hrail
        hroom (by rw [kickShape_modLink]; exact hfits)
  · let s1 := s.modLink p fun l => { l with sending := none }
    rw [exec_replyEnd_portReset hpowered hsending hawaiting,
      portReset_of_quiet (s := s1) hentries hlist (fun c => (hquiet c).1) fun c => (hquiet c).2]
    exact congrArg (fun t => Host.Outcome.next (State.decideLines t)) (State.modPort_modPort ..)

end Sys2Proof.Machine

/-!
The supply (R173).
-/

namespace Sys2Proof.Machine

/-! ## The supply comes and goes -/

theorem port_powerOff (s : State) (p : Port) : s.powerOff.port p = .default := reset_port p

/-- A part without supply drives no gate (R173). -/
theorem gateSixteenths_of_unpowered {s : State} (h : s.powered = false) (c : Chan) : gateSixteenths s c = 0 := by
  simp [gateSixteenths, h]

/-- The fall of the supply leaves no lamp staged and none driven (R155, R173). -/
theorem lampOutput_powerOff (s : State) (l : LampNo) : lampOutput s.powerOff l = 0 := by
  have hstaging : s.powerOff.lampUnit.staging = [] := rfl
  have hlamp : s.powerOff.lamp l = .default := reset_lamp l
  simp [lampOutput, hstaging, hlamp, Lamp.default]

/-- Settles O3: both rows are read off as `State.powerOn` and `State.powerOff`; after the fall the gates are inactive
for want of supply (`gateSixteenths_of_unpowered`), the other outputs by their power-on values. -/
theorem supplyComesAndGoes : Obligations.SupplyComesAndGoes := by
  refine ⟨fun _ => rfl, fun s => ⟨s.powerOff, rfl, rfl, rfl, gateSixteenths_of_unpowered rfl, lampOutput_powerOff s,
    rfl, fun p => ?_⟩⟩
  rw [State.link, port_powerOff]
  exact ⟨rfl, rfl⟩

/-! ## The rows of a part without supply -/

/-- Without supply an event does nothing (R173), so that not even the pins move. -/
theorem pins_of_event_unpowered {act : State → State} {s t : State} (h : s.powered = false)
    (hexec : event act s = .next t) {moved : Prop} :
    t = { s with pins := t.pins } ∧ (t.pins = s.pins ∨ moved) := by
  rw [event, if_neg (by simp [h])] at hexec
  cases hexec
  exact ⟨rfl, .inl rfl⟩

theorem exec_resetnFall_of_unpowered {s : State} (h : s.powered = false) :
    exec .resetnFall s = .next { s with pins := { s.pins with resetn := false } } := by
  cases hlevel : s.pins.resetn with
  | true => simp [exec, execResetnFall, State.setResetn, hlevel, h]
  | false => simp [exec, execResetnFall, ← hlevel]

theorem exec_switchRawChange_of_unpowered {s : State} (h : s.powered = false) (n : SwitchNo) (high : Bool) :
    exec (.switchRawChange n high) s =
      .next { s with pins := { s.pins with switch := s.pins.switch.set n high } } := by
  by_cases hlevel : s.pins.switch[n] = high
  · have hsame : s.pins.switch.set n high = s.pins.switch := by
      rw [← hlevel]
      exact Vector.set_getElem_self n.isLt
    simp only [exec, execSwitchRawChange, if_pos hlevel, hsame]
  · simp only [exec, execSwitchRawChange, if_neg hlevel, h, Bool.false_eq_true, if_false]

theorem exec_senseChange_of_unpowered {s : State} (h : s.powered = false) (c : Chan) (high : Bool) :
    exec (.senseChange c high) s = .next { s with pins := { s.pins with sense := s.pins.sense.set c high } } := by
  by_cases hlevel : s.pins.sense[c] = high
  · have hsame : s.pins.sense.set c high = s.pins.sense := by
      rw [← hlevel]
      exact Vector.set_getElem_self c.isLt
    simp only [exec, execSenseChange, if_pos hlevel, hsame]
  · simp only [exec, execSenseChange, if_neg hlevel, h, Bool.false_eq_true, if_false]

theorem exec_railokChange_of_unpowered {s : State} (h : s.powered = false) (high : Bool) :
    exec (.railokChange high) s = .next { s with pins := { s.pins with railok := high } } := by
  by_cases hlevel : s.pins.railok = high
  · simp [exec, execRailokChange, ← hlevel]
  · simp only [exec, execRailokChange, if_neg hlevel, h, Bool.false_eq_true, if_false]

/-- Settles O5: a row that is an event does nothing (`pins_of_event_unpowered`), and the row of a pin writes its level
(the `_of_unpowered` equations). -/
theorem unpoweredPartTakesOnlyLevels : Obligations.UnpoweredPartTakesOnlyLevels := by
  intro i s t hunpowered hon hfall hexec
  cases rowKind_all i with
  | powerOn => exact absurd rfl hon
  | supplyFall => exact absurd rfl hfall
  | command c p =>
    rw [exec_row] at hexec
    exact pins_of_event_unpowered hunpowered hexec
  | due _ e _ he =>
    rw [he] at hexec
    exact pins_of_event_unpowered hunpowered hexec
  | advance => exact pins_of_event_unpowered (act := State.advance) hunpowered hexec
  | receiveByte p b => exact pins_of_event_unpowered (act := (State.takeByte · p b)) hunpowered hexec
  | replyEnd p => exact pins_of_event_unpowered (act := (State.takeReplyEnd · p)) hunpowered hexec
  | resetnFall =>
    rw [exec_resetnFall_of_unpowered hunpowered] at hexec
    cases hexec
    exact ⟨rfl, .inr (.inl rfl)⟩
  | resetnRise =>
    cases hexec
    exact ⟨rfl, .inr (.inr (.inl rfl))⟩
  | switchRawChange n high =>
    rw [exec_switchRawChange_of_unpowered hunpowered] at hexec
    cases hexec
    exact ⟨rfl, .inr (.inr (.inr (.inl ⟨n, high, rfl⟩)))⟩
  | senseChange c high =>
    rw [exec_senseChange_of_unpowered hunpowered] at hexec
    cases hexec
    exact ⟨rfl, .inr (.inr (.inr (.inr (.inl ⟨c, high, rfl⟩))))⟩
  | railokChange high =>
    rw [exec_railokChange_of_unpowered hunpowered] at hexec
    cases hexec
    exact ⟨rfl, .inr (.inr (.inr (.inr (.inr ⟨high, rfl⟩))))⟩

end Sys2Proof.Machine

/-!
Every command answers a next state, and no write of the part reaches the commands that wait.
-/

namespace Sys2Proof.Machine

/-! ## The waiting commands -/

/-- No write of the part reaches the commands that wait; the supply and the resets carry them over. -/
theorem kept_pending (l : List Instr) : KeptByAll fun s => s.pending = l where
  ports _ _ _ h := h
  table _ _ _ h := h
  coil _ _ _ _ _ _ _ h := h
  note _ _ _ _ _ h := h
  heat _ _ h := h
  list _ _ _ h := h
  reflexes _ _ h := h
  lamps _ _ _ h := h
  free _ _ h := h
  port _ _ _ h := h
  profile _ _ _ _ h := h
  shorts _ h := h
  rail _ _ _ _ _ h := h
  switches _ _ h := h
  control _ _ _ h := h
  reset _ h := h
  pins _ _ h := h
  powerOn _ h := h
  powerOff _ h := h
  tick _ h := h

theorem pending_exec {i : Instr} {s t : State} (h : exec i s = .next t) : t.pending = s.pending :=
  (kept_pending s.pending).exec rfl h

/-! ## A next state -/

/-- An event answers a next state with the supply in range or without it (R173). -/
theorem event_completes (act : State → State) (s : State) : ∃ t, event act s = .next t := by
  unfold event
  split
  · exact ⟨_, rfl⟩
  · exact ⟨_, rfl⟩

/-- The row of a pin answers a next state whether or not the level is already there, with the supply in range or
without it (R31, R110, R136, R173). -/
theorem pinRow_completes {same : Prop} [Decidable same] {powered : Bool} (s moved level : State) :
    ∃ t, (if same then .next s else if powered then .next moved else .next level :
      Host.Outcome State Fault Refusal) = .next t := by
  split
  · exact ⟨s, rfl⟩
  · split
    · exact ⟨moved, rfl⟩
    · exact ⟨level, rfl⟩

theorem execResetnFall_completes (s : State) : ∃ t, execResetnFall s = .next t := by
  unfold execResetnFall
  split
  · split
    · exact ⟨_, rfl⟩
    · exact ⟨_, rfl⟩
  · exact ⟨s, rfl⟩

theorem exec_completes (i : Instr) (s : State) : ∃ t, exec i s = .next t := by
  cases rowKind_all i with
  | command c p =>
    rw [exec_row]
    exact event_completes _ s
  | due _ e _ he =>
    rw [he]
    exact event_completes e.take s
  | advance => exact event_completes State.advance s
  | receiveByte p b => exact event_completes (State.takeByte · p b) s
  | replyEnd p => exact event_completes (State.takeReplyEnd · p) s
  | powerOn => exact ⟨s.powerOn, rfl⟩
  | supplyFall => exact ⟨s.powerOff, rfl⟩
  | resetnFall => exact execResetnFall_completes s
  | resetnRise => exact ⟨s.setResetn true, rfl⟩
  | switchRawChange | senseChange | railokChange => exact pinRow_completes s _ _

/-- Settles O2: a row of every kind answers a next state (`exec_completes`), and each write of the kit leaves the
waiting commands as they are (`kept_pending`), so every command does (`pending_exec`). -/
theorem everyCommandCompletes : Obligations.EveryCommandCompletes := by
  intro i s
  obtain ⟨t, hexec⟩ := exec_completes i s
  exact ⟨t, hexec, pending_exec hexec⟩

end Sys2Proof.Machine
